-- ==== Sys2Proof/Word.lean ====
section
/-! DEFINITION. The two word types of the block: a byte (a field element, a buffer entry) and a command word. -/

namespace Sys2Proof

/-- 8 bits; bit 0 is the least significant (00_scope.md R7). As a field element, bit `i` is the
coefficient of `x^i` (40_gf256.md R100). -/
abbrev Byte := BitVec 8

/-- One 32-bit command word (30_encoding.md R80). -/
abbrev Word := BitVec 32

end Sys2Proof
end

