-- ==== Sys2Proof/Config.lean ====
section
/-! DEFINITION. What an implementation fixes: the open parameters of 00_scope.md R6 and the parameter set of the checksum. -/

namespace Sys2Proof.Config

/-- The choice behind `tErr`: any of 127 values, and nothing in Lean says which. -/
opaque errorBudgetPick : Fin 127

/-- `T_ERR`, the frame codec's error budget, 1 to 127 (00_scope.md R6, `OPEN` by
92_eei_decisions.md D3). Log entry 2. -/
def tErr : Nat := errorBudgetPick.val + 1

/-- The choice behind `kHail`: any of 255 values, and nothing in Lean says which. -/
opaque hailPick : Fin 255

/-- `K_HAIL`, the number of hail durations, 1 to 255 (00_scope.md R6, `OPEN` by
92_eei_decisions.md D4). Log entry 2. -/
def kHail : Nat := hailPick.val + 1

/-- `FREQ[0..7]` (44_tone_selector.md R213): open, and read by no rule: the block's output is the index (log entry 11).
That a frequency is a natural number is the model's choice: the spec gives neither a unit nor the kind of number.
DESIGN CHOICE, log entry 13. -/
opaque toneFrequency : Fin 8 → Nat

/-- `FREQ_HAIL` (44_tone_selector.md R213): open, and read by no rule (log entry 11). A natural number like the other
eight: DESIGN CHOICE, log entry 13. -/
opaque hailFrequency : Nat

/-- All that R213 lets a model assume of the frequencies: the hail frequency is distinct from the
eight others. A claim that needs it takes it as a premise. -/
abbrev HailFrequencyDistinct : Prop := ∀ i, toneFrequency i ≠ hailFrequency

/-- The parameters of a CRC of 8 bits, most significant bit first, without reflection. -/
structure ChecksumParameters where
  polynomial : Byte
  initial : Byte
  finalXor : Byte
deriving DecidableEq, Repr

/-- The parameter set 43_frame_codec.md R181 gives for `Crc8`. R181 marks it as general knowledge and
asks that it stay replaceable (93_implementation_defined.md G1, U22). PRESUMED by the spec itself,
log entry 3. -/
def checksum : ChecksumParameters := { polynomial := 0x07, initial := 0x00, finalXor := 0x00 }

end Sys2Proof.Config
end

