-- ==== Sys2Proof/Syntax.lean ====
section
/-! DEFINITION. The commands of the block: one constructor for each of the eleven rows of spec/opcode_table.json. -/

namespace Sys2Proof

/-- The eleven commands of 30_encoding.md R82. Field elements and data are bytes; lengths, indices and
addresses are natural numbers (R85), whose field bounds are in `Instr.wellFormed`. -/
inductive Instr where
  | gfmul (a b : Byte)
  | gfinv (a : Byte)
  | wrb (addr : Nat) (data : Byte)
  | rdb (addr : Nat)
  | rsenc (k npar : Nat)
  | rssyn (k npar : Nat)
  | rsdec (k npar : Nat)
  | frbuild (k : Nat)
  | frparse (len : Nat)
  | tone (b : Byte)
  | lsym (idx : Nat)
deriving DecidableEq, Repr

/-- The eleven opcodes, without operands: the rows of 30_encoding.md R82. -/
inductive Opcode where
  | gfmul | gfinv | wrb | rdb | rsenc | rssyn | rsdec | frbuild | frparse | tone | lsym
deriving DecidableEq, Repr

/-- The row a command belongs to. -/
def Instr.opcode : Instr → Opcode
  | .gfmul _ _ => .gfmul
  | .gfinv _ => .gfinv
  | .wrb _ _ => .wrb
  | .rdb _ => .rdb
  | .rsenc _ _ => .rsenc
  | .rssyn _ _ => .rssyn
  | .rsdec _ _ => .rsdec
  | .frbuild _ => .frbuild
  | .frparse _ => .frparse
  | .tone _ => .tone
  | .lsym _ => .lsym

/-- The mnemonic column of 30_encoding.md R82. -/
def Opcode.mnemonic : Opcode → String
  | .gfmul => "GFMUL"
  | .gfinv => "GFINV"
  | .wrb => "WRB"
  | .rdb => "RDB"
  | .rsenc => "RSENC"
  | .rssyn => "RSSYN"
  | .rsdec => "RSDEC"
  | .frbuild => "FRBUILD"
  | .frparse => "FRPARSE"
  | .tone => "TONE"
  | .lsym => "LSYM"

/-- The operands in the order of 30_encoding.md R87's operand lists. -/
def Instr.operands : Instr → List Nat
  | .gfmul a b => [a.toNat, b.toNat]
  | .gfinv a => [a.toNat]
  | .wrb addr data => [addr, data.toNat]
  | .rdb addr => [addr]
  | .rsenc k npar => [k, npar]
  | .rssyn k npar => [k, npar]
  | .rsdec k npar => [k, npar]
  | .frbuild k => [k]
  | .frparse len => [len]
  | .tone b => [b.toNat]
  | .lsym idx => [idx]

/-- A command as 30_encoding.md R87 writes it: the mnemonic, then the operands separated by commas. -/
def Instr.assembly (i : Instr) : String :=
  i.opcode.mnemonic ++ " " ++ ", ".intercalate (i.operands.map toString)

/-- The pseudo-instruction `SETCFG v` (30_encoding.md R88): `WRB 0xF08, v`, for `v` in 0 to 7. -/
def Instr.setcfg (v : Fin 8) : Instr := .wrb 0xF08 (BitVec.ofNat 8 v.val)

end Sys2Proof
end

