-- ==== Sys2Proof/WellFormed.lean ====
section
/-! DEFINITION. Which terms of `Instr` are commands: every operand fits its field of the command word. -/

namespace Sys2Proof

/-- An operand fits a byte field `f1` or `f2` (30_encoding.md R85: "value 0 to 255"). -/
def fitsByteField (n : Nat) : Bool := decide (n ≤ 255)

/-- An operand fits the 16-bit field `h` (30_encoding.md R85: "value 0 to 65535"). -/
def fitsHalfField (n : Nat) : Bool := decide (n ≤ 65535)

/-- Every operand fits its field. "An operand out of its field's range is an assembler error, not a
command" (30_encoding.md R87). -/
def Instr.wellFormed : Instr → Bool
  | .gfmul _ _ => true
  | .gfinv _ => true
  | .wrb addr _ => fitsHalfField addr
  | .rdb addr => fitsHalfField addr
  | .rsenc k npar => fitsByteField k && fitsByteField npar
  | .rssyn k npar => fitsByteField k && fitsByteField npar
  | .rsdec k npar => fitsByteField k && fitsByteField npar
  | .frbuild k => fitsByteField k
  | .frparse len => fitsHalfField len
  | .tone _ => true
  | .lsym idx => fitsHalfField idx

/-- The same as a proposition. -/
abbrev Instr.WellFormed (i : Instr) : Prop := i.wellFormed = true

end Sys2Proof
end

