-- ==== Sys2Proof/Decode.lean ====
section
/-! DEFINITION. The command word: its fields, the total decoder of 30_encoding.md R89, and the encoder. -/

namespace Sys2Proof

/-- Why a word is no command (30_encoding.md R83, R84). Both raise `IllegalCommand` when executed. -/
inductive Illegal where
  /-- The opcode byte is none of the eleven of R82 (R84). -/
  | reservedOpcode (op : Byte)
  /-- A must-be-zero field of the row is not zero (R83). -/
  | mustBeZero (row : Opcode)
deriving DecidableEq, Repr

/-- `op = w[31:24]` (30_encoding.md R80). -/
def fieldOp (w : Word) : Byte := w.extractLsb' 24 8

/-- `f1 = w[23:16]` (30_encoding.md R80). -/
def fieldF1 (w : Word) : Byte := w.extractLsb' 16 8

/-- `f2 = w[15:8]` (30_encoding.md R80). -/
def fieldF2 (w : Word) : Byte := w.extractLsb' 8 8

/-- `f3 = w[7:0]` (30_encoding.md R80). -/
def fieldF3 (w : Word) : Byte := w.extractLsb' 0 8

/-- `h = w[23:8]`, the same bits as `f1` and `f2` together (30_encoding.md R80). -/
def fieldH (w : Word) : BitVec 16 := w.extractLsb' 8 16

/-- The `op` column of 30_encoding.md R82. -/
def Opcode.code : Opcode → Byte
  | .gfmul => 0x01
  | .gfinv => 0x02
  | .wrb => 0x10
  | .rdb => 0x11
  | .rsenc => 0x20
  | .rssyn => 0x21
  | .rsdec => 0x22
  | .frbuild => 0x30
  | .frparse => 0x31
  | .tone => 0x40
  | .lsym => 0x41

/-- The rows of 30_encoding.md R82 in its order. -/
def Opcode.all : List Opcode :=
  [.gfmul, .gfinv, .wrb, .rdb, .rsenc, .rssyn, .rsdec, .frbuild, .frparse, .tone, .lsym]

/-- Step (1) of 30_encoding.md R89: look the opcode byte up. -/
def Opcode.ofCode (op : Byte) : Option Opcode := Opcode.all.find? fun o => o.code == op

/-- The bits a row fixes: the `mask` column of 30_encoding.md R82. -/
def Opcode.mask : Opcode → Word
  | .gfmul => 0xFF0000FF
  | .gfinv => 0xFF00FFFF
  | .wrb => 0xFF000000
  | .rdb => 0xFF0000FF
  | .rsenc => 0xFF0000FF
  | .rssyn => 0xFF0000FF
  | .rsdec => 0xFF0000FF
  | .frbuild => 0xFF00FFFF
  | .frparse => 0xFF0000FF
  | .tone => 0xFF00FFFF
  | .lsym => 0xFF0000FF

/-- The `match` column of 30_encoding.md R82: the opcode byte above zeros. -/
def Opcode.pattern (o : Opcode) : Word := o.code.zeroExtend 32 <<< 24

/-- Step (2) of 30_encoding.md R89: the must-be-zero fields of the row (R83) are zero. -/
def Opcode.zerosHold : Opcode → Word → Bool
  | .gfmul, w => fieldF3 w == 0
  | .gfinv, w => fieldF2 w == 0 && fieldF3 w == 0
  | .wrb, _ => true
  | .rdb, w => fieldF3 w == 0
  | .rsenc, w => fieldF3 w == 0
  | .rssyn, w => fieldF3 w == 0
  | .rsdec, w => fieldF3 w == 0
  | .frbuild, w => fieldF2 w == 0 && fieldF3 w == 0
  | .frparse, w => fieldF3 w == 0
  | .tone, w => fieldF2 w == 0 && fieldF3 w == 0
  | .lsym, w => fieldF3 w == 0

/-- Step (3) of 30_encoding.md R89: the row's command with the operands of its columns (R82, R85). -/
def Opcode.command : Opcode → Word → Instr
  | .gfmul, w => .gfmul (fieldF1 w) (fieldF2 w)
  | .gfinv, w => .gfinv (fieldF1 w)
  | .wrb, w => .wrb (fieldH w).toNat (fieldF3 w)
  | .rdb, w => .rdb (fieldH w).toNat
  | .rsenc, w => .rsenc (fieldF1 w).toNat (fieldF2 w).toNat
  | .rssyn, w => .rssyn (fieldF1 w).toNat (fieldF2 w).toNat
  | .rsdec, w => .rsdec (fieldF1 w).toNat (fieldF2 w).toNat
  | .frbuild, w => .frbuild (fieldF1 w).toNat
  | .frparse, w => .frparse (fieldH w).toNat
  | .tone, w => .tone (fieldF1 w)
  | .lsym, w => .lsym (fieldH w).toNat

/-- Decoding, total on 32-bit words, in the three steps of 30_encoding.md R89. It reads no state. -/
def decode (w : Word) : Except Illegal Instr :=
  match Opcode.ofCode (fieldOp w) with
  | none => .error (.reservedOpcode (fieldOp w))
  | some o => if o.zerosHold w then .ok (o.command w) else .error (.mustBeZero o)

/-- The instruction the decoder reads from the first `nbits` bits `w` of a command (the bits above
them zero). A command is one word presented whole (20_memory.md R62, R64), so no byte order enters. -/
def decodeTableWord (nbits w : Nat) : Option Instr :=
  (decode (BitVec.ofNat 32 (w % 2 ^ nbits))).toOption

/-- A word of format R from its four bytes (30_encoding.md R81). -/
def wordR (op f1 f2 f3 : Byte) : Word := op ++ f1 ++ f2 ++ f3

/-- A word of format M from its opcode, its 16-bit field and its byte (30_encoding.md R81). -/
def wordM (op : Byte) (h : BitVec 16) (f3 : Byte) : Word := op ++ h ++ f3

/-- The word of a command, from the columns of 30_encoding.md R82. -/
def encode (i : Instr) : Word :=
  match i with
  | .gfmul a b => wordR i.opcode.code a b 0
  | .gfinv a => wordR i.opcode.code a 0 0
  | .wrb addr data => wordM i.opcode.code (BitVec.ofNat 16 addr) data
  | .rdb addr => wordM i.opcode.code (BitVec.ofNat 16 addr) 0
  | .rsenc k npar => wordR i.opcode.code (BitVec.ofNat 8 k) (BitVec.ofNat 8 npar) 0
  | .rssyn k npar => wordR i.opcode.code (BitVec.ofNat 8 k) (BitVec.ofNat 8 npar) 0
  | .rsdec k npar => wordR i.opcode.code (BitVec.ofNat 8 k) (BitVec.ofNat 8 npar) 0
  | .frbuild k => wordR i.opcode.code (BitVec.ofNat 8 k) 0 0
  | .frparse len => wordM i.opcode.code (BitVec.ofNat 16 len) 0
  | .tone b => wordR i.opcode.code b 0 0
  | .lsym idx => wordM i.opcode.code (BitVec.ofNat 16 idx) 0

end Sys2Proof
end

