-- ==== Sys2Proof/Machine/State.lean ====
section
/-! DEFINITION. The state of the block (10_state.md R20), its codes, the block together with the host's moves still to
come, the reasons a step can stop, and reset. -/

namespace Sys2Proof.Machine

/-- One byte array of the block, as (index, byte) cells in canonical form: indices strictly rising and no
cell equal to what an unlisted index reads as. -/
abbrev Memory := List Host.Cell

/-- One move of the host (45_host_access.md R225): present a command word, or apply reset. -/
inductive HostEvent where
  | command (w : Word)
  | reset
deriving DecidableEq, Repr

/-- The five faults of 60_exceptions.md R231. They are the block's own exceptions: a command that raises
one goes on to a next state with `FAULT` set, so none of them stops the model. -/
inductive FaultCode where
  /-- The command word does not decode. -/
  | illegalCommand
  /-- The address of a `WRB` or `RDB` is not mapped. -/
  | addressRange
  /-- The address of a `WRB` is mapped read-only. -/
  | writeToReadOnly
  /-- An operand is outside the range its rule gives. -/
  | operandRange
  /-- `GFINV` with `a = 0`. -/
  | inverseOfZero
deriving DecidableEq, Repr

/-- The code a fault writes to `FAULT` (60_exceptions.md R231). -/
def FaultCode.bits : FaultCode → BitVec 3
  | .illegalCommand => 1
  | .addressRange => 2
  | .writeToReadOnly => 3
  | .operandRange => 4
  | .inverseOfZero => 5

/-- The result codes of 10_state.md R29 and 60_exceptions.md R238. -/
inductive ResultCode where
  | ok
  | corruptChecksum
  | unrepairable
  | corruptLength
deriving DecidableEq, Repr

/-- The value of `RESULT` for a result code (10_state.md R29). -/
def ResultCode.bits : ResultCode → BitVec 2
  | .ok => 0
  | .corruptChecksum => 1
  | .unrepairable => 2
  | .corruptLength => 3

/-- The kinds of line symbol of 10_state.md R39 and 44_tone_selector.md R211. -/
inductive LineKind where
  | hail
  | data
  | endMark
deriving DecidableEq, Repr

/-- The value of `RESK` for a kind of line symbol (10_state.md R39). -/
def LineKind.bits : LineKind → BitVec 2
  | .hail => 0
  | .data => 1
  | .endMark => 2

/-- The whole state of the block: a record with exactly the fields of 10_state.md R20 and nothing else (`EXP` and `LOG`
are constants and stand outside the mutable state, R23). The command stream and the position in it are not in it
(R22, R42). -/
structure Block where
  /-- `DBUF[0..254]`, the data buffer (R24). -/
  dbuf : Memory
  /-- `FBUF[0..257]`, the frame buffer (R25). -/
  fbuf : Memory
  /-- `GEN[0..255]`, the generator polynomial of the last encode (R26). -/
  gen : Memory
  /-- `PAR[0..255]`, the LFSR after the last encode (R26). -/
  par : Memory
  /-- `SYN[0..255]`, the syndromes (R27). -/
  syn : Memory
  /-- `LAMBDA[0..255]`, the error locator (R27). -/
  lambda : Memory
  /-- `OMEGA[0..255]`, the error evaluator (R27). -/
  omega : Memory
  /-- `ERRLOC[0..255]`, the error locations found (R27). -/
  errloc : Memory
  /-- `RES`, the result byte (R28). -/
  res : BitVec 8
  /-- `RESK`, the kind of the last line symbol (R39). -/
  resk : BitVec 2
  /-- `RESULT`, the result code of the last codec command (R29). -/
  result : BitVec 2
  /-- `SYNNZ`, whether a syndrome was nonzero (R30). -/
  synnz : BitVec 1
  /-- `NERR`, the number of roots found (R31). -/
  nerr : BitVec 8
  /-- `FLEN`, the length of the frame in `FBUF` (R32). -/
  flen : BitVec 9
  /-- `PLEN`, the payload length of the last frame (R33). -/
  plen : BitVec 8
  /-- `RXFLAGS`, the flags byte of the last frame parsed (R34). -/
  rxflags : BitVec 8
  /-- `CFG`, the session configuration (R35). -/
  cfg : BitVec 3
  /-- `TBUDGET`, constant: the parameter `T_ERR` (R36). -/
  tbudget : BitVec 8
  /-- `KHAIL`, constant: the parameter `K_HAIL` (R38). -/
  khail : BitVec 8
  /-- `FAULT`, the fault code, 0 for none (R37). -/
  fault : BitVec 3
deriving DecidableEq, Repr

/-- The block, and beside it the host's moves that are still to come, the next one first (45_host_access.md R225). The
machine that steps is the two together, and only the step over the port reads or changes the moves: they are no state of
the block, every command works on the `Block` alone, and `run` takes them as its parameter (10_state.md R22, R42).
DESIGN CHOICE, log entry 1. -/
structure State extends Block where
  /-- The moves still to come. -/
  port : List HostEvent
deriving DecidableEq, Repr

/-- The reasons the model stops with a fault: none. Fault entry is described by the spec in full
(60_exceptions.md R232, R233), so a faulting command has a next state. Safe: nothing raises it. Log entry 4. -/
inductive Fault
deriving DecidableEq, Repr

/-- The reasons an instruction has no meaning in the model. -/
inductive Refusal where
  /-- An arm of `exec` without a meaning. No arm raises it: every command has its meaning. Safe. -/
  | notModelled (mnemonic : String)
deriving DecidableEq, Repr

/-- The block right after reset (10_state.md R41, 70_reset_and_hazards.md R261): R260's constant `resetState`. -/
def Block.reset : Block where
  dbuf := []
  fbuf := []
  gen := []
  par := []
  syn := []
  lambda := []
  omega := []
  errloc := []
  res := 0x00
  resk := 0
  result := 0
  synnz := 0
  nerr := 0
  flen := 0
  plen := 0
  rxflags := 0xFF
  cfg := 0
  tbudget := BitVec.ofNat 8 Config.tErr
  khail := BitVec.ofNat 8 Config.kHail
  fault := 0

/-- The block right after reset, with no move of the host pending (log entry 1). -/
def State.reset : State := { toBlock := Block.reset, port := [] }

end Sys2Proof.Machine
end

