-- ==== Sys2Proof/Machine/Ops.lean ====
section
/-! DEFINITION. The operations every command is built from: byte arrays, register updates, fault entry, reset. -/

namespace Sys2Proof.Machine

/-! ## Byte arrays -/

/-- What an index nothing has written reads as: its reset contents (10_state.md R41). -/
def Memory.unlisted : Byte := 0x00

/-- The byte at an index. -/
def Memory.read : Memory → Nat → Byte
  | [], _ => Memory.unlisted
  | (j, v) :: m, i => if j = i then v else Memory.read m i

/-- The array without a cell at `i`. -/
def Memory.drop (m : Memory) (i : Nat) : Memory := m.filter fun c => c.1 != i

/-- The array with a cell at `i` put before the first cell of a higher index. -/
def Memory.place (i : Nat) (v : Byte) : Memory → Memory
  | [] => [(i, v)]
  | (j, w) :: m => if i < j then (i, v) :: (j, w) :: m else (j, w) :: Memory.place i v m

/-- `A[i] <- v` (00_scope.md R8). Writing the byte an unlisted index reads as removes the cell. -/
def Memory.write (m : Memory) (i : Nat) (v : Byte) : Memory :=
  if v = Memory.unlisted then m.drop i else Memory.place i v (m.drop i)

/-- `A[at + i] <- bytes[i]` for every index of `bytes`, in rising order. -/
def Memory.writeBytes : Memory → Nat → List Byte → Memory
  | m, _, [] => m
  | m, base, b :: bs => Memory.writeBytes (m.write base b) (base + 1) bs

/-- `A[base..base+n-1]` (00_scope.md R8). -/
def Memory.bytes (m : Memory) (base n : Nat) : List Byte := (List.range n).map fun i => m.read (base + i)

/-- The cells of the bytes at `base`, `base + 1`, ... and nothing else. -/
def Memory.ofBytesAt : Nat → List Byte → Memory
  | _, [] => []
  | base, b :: bs =>
    if b = Memory.unlisted then Memory.ofBytesAt (base + 1) bs else (base, b) :: Memory.ofBytesAt (base + 1) bs

/-- A whole array written: the bytes given from index 0, "`A[i] <- 0` for all other `i`" (00_scope.md R8). -/
def Memory.ofBytes (bs : List Byte) : Memory := Memory.ofBytesAt 0 bs

/-- The canonical form: indices strictly rising, and no cell that an unlisted index would read the same. -/
def Memory.wf : Memory → Bool
  | [] => true
  | [(_, v)] => v != Memory.unlisted
  | (i, v) :: (j, w) :: m => v != Memory.unlisted && decide (i < j) && Memory.wf ((j, w) :: m)

/-- Every cell lies below `size`: an array holds no index its rule does not give it (10_state.md R20). -/
def Memory.within (m : Memory) (size : Nat) : Bool := m.all fun c => decide (c.1 < size)

/-- Entries in `DBUF` (10_state.md R24). -/
abbrev dbufSize : Nat := 255

/-- Entries in `FBUF` (10_state.md R25). -/
abbrev fbufSize : Nat := 258

/-- Entries in each working array (10_state.md R26, R27). -/
abbrev arraySize : Nat := 256

/-! ## Register and array updates, one for each group of fields a rule writes together -/

namespace Block

/-- `RES <- v` (10_state.md R28). -/
def setRes (s : Block) (v : Byte) : Block := { s with res := v }

/-- `RESK` and `RES` of one line symbol (44_tone_selector.md R210, R211). -/
def setLine (s : Block) (kind : LineKind) (index : Byte) : Block := { s with resk := kind.bits, res := index }

/-- `RESULT <- code` (10_state.md R29). -/
def setResult (s : Block) (c : ResultCode) : Block := { s with result := c.bits }

/-- `CFG <- v` (10_state.md R35). -/
def setCfg (s : Block) (v : BitVec 3) : Block := { s with cfg := v }

/-- `FLEN <- n` (10_state.md R32). -/
def setFlen (s : Block) (n : Nat) : Block := { s with flen := BitVec.ofNat 9 n }

/-- `PLEN <- k` (10_state.md R33). -/
def setPlen (s : Block) (k : Byte) : Block := { s with plen := k }

/-- `RXFLAGS <- flags` (10_state.md R34). -/
def setRxflags (s : Block) (flags : Byte) : Block := { s with rxflags := flags }

/-- Bytes into `DBUF` from an index on. -/
def writeDbuf (s : Block) (base : Nat) (bs : List Byte) : Block := { s with dbuf := s.dbuf.writeBytes base bs }

/-- Bytes into `FBUF` from an index on. -/
def writeFbuf (s : Block) (base : Nat) (bs : List Byte) : Block := { s with fbuf := s.fbuf.writeBytes base bs }

/-- All of `GEN` and `PAR` (10_state.md R26). -/
def setEncoder (s : Block) (gen par : List Byte) : Block :=
  { s with gen := Memory.ofBytes gen, par := Memory.ofBytes par }

/-- All of `SYN`, and `SYNNZ` from it (42_rs_decoder.md R141, R142). -/
def setSyndromes (s : Block) (syn : List Byte) : Block :=
  { s with syn := Memory.ofBytes syn, synnz := if syn.all (· == 0) then 0 else 1 }

/-- All of `LAMBDA`, `OMEGA` and `ERRLOC`, and `NERR` (42_rs_decoder.md R143, R147 to R149). -/
def setSolver (s : Block) (lambda omega : List Byte) (locations : List Nat) : Block :=
  { s with
    lambda := Memory.ofBytes lambda
    omega := Memory.ofBytes omega
    errloc := Memory.ofBytes (locations.map (BitVec.ofNat 8))
    nerr := BitVec.ofNat 8 locations.length }

/-! ## Taking a fault, and the way out of it -/

/-- Fault entry (60_exceptions.md R232): `FAULT <- code(F)`, and no other state changes. There is no
handler, no vector, no saved state and no mode. -/
def raise (s : Block) (f : FaultCode) : Block := { s with fault := f.bits }

/-- Whether the block is stopped: `FAULT != 0` (60_exceptions.md R233). -/
def stopped (s : Block) : Bool := s.fault != 0

/-- Reset, the only way out of a fault (60_exceptions.md R237, 70_reset_and_hazards.md R260): every piece of
state takes its value of R41. "Nothing survives it except the constant tables and the two constant
registers" (log entry 6). -/
def applyReset (s : Block) : Block := { Block.reset with tbudget := s.tbudget, khail := s.khail }

end Block

/-! ## The block among the host's moves -/

/-- The state after an effect on the block. No command reaches the host's pending moves (10_state.md R22). -/
def State.onBlock (s : State) (f : Block → Block) : State := { s with toBlock := f s.toBlock }

/-- The host's pending moves become `es`. -/
def State.setPort (s : State) (es : List HostEvent) : State := { s with port := es }

/-- The block with no move of the host pending. -/
def Block.alone (b : Block) : State := { toBlock := b, port := [] }

end Sys2Proof.Machine
end

