-- ==== Sys2Proof/Machine/Operands.lean ====
section
/-! DEFINITION. The operand ranges of the commands and the address map of the local address space. -/

namespace Sys2Proof.Machine

/-! ## Operand ranges (60_exceptions.md R231, code 4) -/

/-- The longest codeword and the longest frame body (00_scope.md R6). -/
abbrev maxCodeword : Nat := 255

/-- The longest frame, 2 header bytes, 255 body bytes and a checksum (43_frame_codec.md R180). -/
abbrev maxFrame : Nat := 258

/-- The range check of `RSENC`, `RSSYN` and `RSDEC` (41_rs_encoder.md R120, 42_rs_decoder.md R140, R143). -/
def codewordInRange (k npar : Nat) : Bool := !(npar == 0 || decide (maxCodeword < k + npar))

/-- The range check of `FRBUILD` (43_frame_codec.md R184): `k` is a payload length 0 to 255, and with FEC
the codeword of `2 * T` parity bytes is at most 255 bytes long. -/
def buildInRange (fec : Bool) (k t : Nat) : Bool :=
  !(decide (255 < k) || (fec && decide (maxCodeword < k + 2 * t)))

/-- The range check of `FRPARSE` (43_frame_codec.md R190). -/
def parseInRange (len : Nat) : Bool := !decide (maxFrame < len)

/-- The range check of `LSYM` (44_tone_selector.md R212): `idx` is not past the end marker. -/
def symbolInRange (idx hails flen : Nat) : Bool := !decide (hails + flen < idx)

/-! ## The address map (20_memory.md R61) -/

/-- The registers of the local address space, `0xF00` to `0xF0B` (20_memory.md R61). -/
inductive Register where
  | res | resk | result | synnz | nerr | flenl | flenh | plen | cfg | rxflags | tbudget | khail
deriving DecidableEq, Repr

/-- What one mapped address holds: an entry of an array, or a register. -/
inductive Place where
  | dbuf (i : Nat)
  | fbuf (i : Nat)
  | gen (i : Nat)
  | par (i : Nat)
  | syn (i : Nat)
  | lambda (i : Nat)
  | omega (i : Nat)
  | errloc (i : Nat)
  | register (r : Register)
deriving DecidableEq, Repr

/-- The registers in address order from `0xF00` (20_memory.md R61). -/
def registerMap : List Register :=
  [.res, .resk, .result, .synnz, .nerr, .flenl, .flenh, .plen, .cfg, .rxflags, .tbudget, .khail]

/-- The address map of 20_memory.md R61; `none` is an unmapped address. -/
def placeAt (addr : Nat) : Option Place :=
  if addr < 0x0FF then some (.dbuf addr)
  else if addr < 0x100 then none
  else if addr < 0x202 then some (.fbuf (addr - 0x100))
  else if addr < 0x300 then none
  else if addr < 0x400 then some (.gen (addr - 0x300))
  else if addr < 0x500 then some (.par (addr - 0x400))
  else if addr < 0x600 then some (.syn (addr - 0x500))
  else if addr < 0x700 then some (.lambda (addr - 0x600))
  else if addr < 0x800 then some (.omega (addr - 0x700))
  else if addr < 0x900 then some (.errloc (addr - 0x800))
  else if addr < 0xF00 then none
  else registerMap[addr - 0xF00]?.map Place.register

/-- The access column of 20_memory.md R61: `RW` for `DBUF`, `FBUF` and `CFG`, `RO` for the rest. -/
def Place.writable : Place → Bool
  | .dbuf _ => true
  | .fbuf _ => true
  | .register .cfg => true
  | _ => false

/-- A register as the byte `RDB` reads, zeros above a narrow one (10_state.md R28 to R39, 20_memory.md R61, R62). -/
def Block.readRegister (s : Block) : Register → Byte
  | .res => s.res
  | .resk => s.resk.zeroExtend 8
  | .result => s.result.zeroExtend 8
  | .synnz => s.synnz.zeroExtend 8
  | .nerr => s.nerr
  | .flenl => s.flen.extractLsb' 0 8
  | .flenh => (s.flen.extractLsb' 8 1).zeroExtend 8
  | .plen => s.plen
  | .cfg => s.cfg.zeroExtend 8
  | .rxflags => s.rxflags
  | .tbudget => s.tbudget
  | .khail => s.khail

/-- `MemRead(addr, 1)` of a mapped address (00_scope.md R10, 20_memory.md R61). It has no side effect (R66). -/
def Block.load (s : Block) : Place → Byte
  | .dbuf i => s.dbuf.read i
  | .fbuf i => s.fbuf.read i
  | .gen i => s.gen.read i
  | .par i => s.par.read i
  | .syn i => s.syn.read i
  | .lambda i => s.lambda.read i
  | .omega i => s.omega.read i
  | .errloc i => s.errloc.read i
  | .register r => s.readRegister r

/-- `MemWrite(addr, 1, data)` of a writable place (45_host_access.md R220, R222): one byte of `DBUF` or
`FBUF`, or `CFG <- data[2:0]`. A read-only place keeps its value. -/
def Block.store (s : Block) (p : Place) (data : Byte) : Block :=
  match p with
  | .dbuf i => s.writeDbuf i [data]
  | .fbuf i => s.writeFbuf i [data]
  | .register .cfg => s.setCfg (data.setWidth 3)
  | _ => s

end Sys2Proof.Machine
end

