-- ==== Sys2Proof/Machine/Decoder.lean ====
section
/-! DEFINITION. The Reed-Solomon decoder: syndromes, the Berlekamp-Massey solver, root search, magnitudes, RSSYN and
RSDEC. A polynomial is the list of its coefficients, lowest degree first; a coefficient the list does not reach is 0. -/

namespace Sys2Proof.Machine

/-- The coefficient of `x^j`. -/
def coeff (p : List Byte) (j : Nat) : Byte := p.getD j 0x00

/-! ## Syndromes (42_rs_decoder.md R141) -/

/-- `S_j` of a codeword by Horner's rule, first byte first: `s <- byte ^ gmul(apow(j+1), s)`. -/
def syndrome (codeword : List Byte) (j : Nat) : Byte :=
  codeword.foldl (fun s b => b ^^^ gmul (apow (j + 1)) s) 0x00

/-- `S_0` to `S_(npar-1)`. -/
def syndromes (codeword : List Byte) (npar : Nat) : List Byte := (List.range npar).map (syndrome codeword)

/-! ## Berlekamp-Massey solver (42_rs_decoder.md R144 to R147) -/

/-- The sum of two polynomials. -/
def polyAdd : List Byte → List Byte → List Byte
  | [], q => q
  | a :: p, [] => a :: p
  | a :: p, b :: q => (a ^^^ b) :: polyAdd p q

/-- A polynomial times a field element. -/
def polyScale (c : Byte) (p : List Byte) : List Byte := p.map (gmul c)

/-- The temporaries of the iteration, no state of the block (10_state.md R42). Their arrays of 257 bytes are lists
here, whose length `psi_length_le` bounds (log entry 7). -/
structure Solver where
  psi : List Byte
  d : List Byte
  kk : Int
  len : Nat
deriving DecidableEq, Repr

/-- `psi = 1`, `D = x`, `kk = -1`, `L = 0` (42_rs_decoder.md R144). -/
def solverStart : Solver := { psi := [0x01], d := [0x00, 0x01], kk := -1, len := 0 }

/-- The discrepancy of iteration `m` (42_rs_decoder.md R145). -/
def discrepancy (syn : List Byte) (m : Nat) (v : Solver) : Byte :=
  xorSum (v.len + 1) fun i => gmul (coeff v.psi i) (coeff syn (m - i))

/-- The update of iteration `m` for the discrepancy `d` (42_rs_decoder.md R146). The inverse exists exactly when
`d` is not zero. -/
def solverUpdate (m : Nat) (d : Byte) (v : Solver) : Solver :=
  match ginv d with
  | none => v
  | some dinv =>
    let psi2 := polyAdd v.psi (polyScale d v.d)
    if (v.len : Int) < m - v.kk then
      { psi := psi2, d := polyScale dinv v.psi, kk := m - v.len, len := (m - v.kk).toNat }
    else { v with psi := psi2 }

/-- `D <- x * D` (42_rs_decoder.md R147). -/
def solverShift (v : Solver) : Solver := { v with d := 0x00 :: v.d }

/-- The solver after the iterations `0` to `m - 1`. -/
def solverAfter (syn : List Byte) : Nat → Solver
  | 0 => solverStart
  | m + 1 =>
    let v := solverAfter syn m
    solverShift (solverUpdate m (discrepancy syn m v) v)

/-- `LAMBDA`, the error locator (42_rs_decoder.md R147). -/
def errorLocator (syn : List Byte) (npar : Nat) : List Byte := (solverAfter syn npar).psi

/-! ## Evaluator, roots, magnitudes (42_rs_decoder.md R148 to R155) -/

/-- `OMEGA = (LAMBDA * S) mod x^npar` (42_rs_decoder.md R148). -/
def errorEvaluator (lam syn : List Byte) (npar : Nat) : List Byte :=
  (List.range npar).map fun j => xorSum (j + 1) fun i => gmul (coeff lam i) (coeff syn (j - i))

/-- `LAMBDA(α^r)`, the sum up to `x^npar` (42_rs_decoder.md R149). -/
def locatorAt (lam : List Byte) (npar r : Nat) : Byte :=
  xorSum (npar + 1) fun j => gmul (apow (j * r)) (coeff lam j)

/-- The locations `255 - r` of the roots `α^r`, for `r` from 1 to 255 in that order (42_rs_decoder.md R149). -/
def errorLocations (lam : List Byte) (npar : Nat) : List Nat :=
  (((List.range 255).map (· + 1)).filter fun r => locatorAt lam npar r == 0x00).map (255 - ·)

/-- `OMEGA(α^(-i))` (42_rs_decoder.md R153). -/
def magnitudeNumerator (om : List Byte) (npar i : Nat) : Byte :=
  xorSum npar fun j => gmul (coeff om j) (apow ((255 - i) * j))

/-- `LAMBDA'(α^(-i))`, the terms of odd `j` (42_rs_decoder.md R153). -/
def magnitudeDenominator (lam : List Byte) (npar i : Nat) : Byte :=
  xorSum (npar + 1) fun j => if j % 2 = 1 then gmul (coeff lam j) (apow ((255 - i) * (j - 1))) else 0x00

/-- The error magnitude at location `i`, none when the derivative is zero (42_rs_decoder.md R153, R154). -/
def errorMagnitude (lam om : List Byte) (npar i : Nat) : Option Byte :=
  (ginv (magnitudeDenominator lam npar i)).map (gmul (magnitudeNumerator om npar i))

/-- The magnitudes at all the locations, none when one derivative is zero (42_rs_decoder.md R154). -/
def errorMagnitudes (lam om : List Byte) (npar : Nat) : List Nat → Option (List Byte)
  | [] => some []
  | i :: is =>
    match errorMagnitude lam om npar i, errorMagnitudes lam om npar is with
    | some e, some es => some (e :: es)
    | _, _ => none

/-- The magnitudes to correct with, none when the decode fails: no root (42_rs_decoder.md R150), too many roots
(R151), a location out of bounds (R152) or a zero derivative (R154). -/
def corrections (lam om : List Byte) (npar n : Nat) (locations : List Nat) : Option (List Byte) :=
  if locations.isEmpty then none
  else if npar < locations.length then none
  else if locations.any fun i => decide (n ≤ i) then none
  else errorMagnitudes lam om npar locations

/-- `DBUF[n-1-i] <- DBUF[n-1-i] ^ e` for each location `i` and its magnitude `e` (42_rs_decoder.md R155). -/
def Block.correct (s : Block) (n : Nat) : List Nat → List Byte → Block
  | i :: is, e :: es => Block.correct (s.writeDbuf (n - 1 - i) [s.dbuf.read (n - 1 - i) ^^^ e]) n is es
  | _, _ => s

/-- `SYN` and `SYNNZ` of the codeword `DBUF[0..n-1]` (42_rs_decoder.md R141, R142). -/
def Block.computeSyndromes (s : Block) (k npar : Nat) : Block :=
  s.setSyndromes (syndromes (s.dbuf.bytes 0 (k + npar)) npar)

/-- The decode and repair of `DBUF[0..n-1]` after the range check (42_rs_decoder.md R143). -/
def Block.decodeCodeword (s : Block) (k npar : Nat) : Block :=
  let n := k + npar
  let syn := syndromes (s.dbuf.bytes 0 n) npar
  let s1 := s.computeSyndromes k npar
  if s1.synnz = 0 then (s1.setSolver [0x01] [] []).setResult .ok
  else
    let lam := errorLocator syn npar
    let om := errorEvaluator lam syn npar
    let locations := errorLocations lam npar
    let s2 := s1.setSolver lam om locations
    match corrections lam om npar n locations with
    | none => s2.setResult .unrepairable
    | some es => (s2.correct n locations es).setResult .ok

/-- `RSSYN k, npar` (42_rs_decoder.md R140). -/
def execRssyn (k npar : Nat) (s : State) : Host.Outcome State Fault Refusal :=
  if codewordInRange k npar then .next (s.onBlock (·.computeSyndromes k npar))
  else .next (s.onBlock (·.raise .operandRange))

/-- `RSDEC k, npar` (42_rs_decoder.md R143). -/
def execRsdec (k npar : Nat) (s : State) : Host.Outcome State Fault Refusal :=
  if codewordInRange k npar then .next (s.onBlock (·.decodeCodeword k npar))
  else .next (s.onBlock (·.raise .operandRange))

end Sys2Proof.Machine
end

