-- ==== Sys2Proof/Machine/Encoder.lean ====
section
/-! DEFINITION. The Reed-Solomon encoder: the generator polynomial, the LFSR, and RSENC. A polynomial is the list of
its coefficients, lowest degree first (00_scope.md R11). -/

namespace Sys2Proof.Machine

/-- The product of a polynomial and `(x + root)`: coefficient `j` becomes
`g[j-1] ^ gmul(g[j], root)` (41_rs_encoder.md R121). -/
def timesRoot (g : List Byte) (root : Byte) : List Byte :=
  List.zipWith (· ^^^ ·) (0x00 :: g) (g.map (gmul · root) ++ [0x00])

/-- `g(x) = (x + α^1)...(x + α^npar)`, `npar + 1` coefficients (41_rs_encoder.md R121). -/
def generatorPolynomial : Nat → List Byte
  | 0 => [0x01]
  | i + 1 => timesRoot (generatorPolynomial i) (apow (i + 1))

/-- One payload byte through the shift register (41_rs_encoder.md R122): the feedback byte is `b ^ PAR[npar-1]`,
and each register takes its lower neighbour and the feedback times its coefficient. The top coefficient is the
implicit tap. -/
def lfsrStep (gen par : List Byte) (b : Byte) : List Byte :=
  let feedback := b ^^^ par.getLastD 0x00
  List.zipWith (fun lower g => lower ^^^ gmul g feedback) (0x00 :: par) (gen.take par.length)

/-- The register after the payload, from all zeros (41_rs_encoder.md R122). -/
def lfsr (gen : List Byte) (npar : Nat) (payload : List Byte) : List Byte :=
  payload.foldl (lfsrStep gen) (List.replicate npar 0x00)

/-- Rules R121 to R123 of 41_rs_encoder.md: all of `GEN` and `PAR`, and the parity bytes appended to the payload
in reverse order of the register index. -/
def Block.encodePayload (s : Block) (k npar : Nat) : Block :=
  let gen := generatorPolynomial npar
  let par := lfsr gen npar (s.dbuf.bytes 0 k)
  (s.setEncoder gen par).writeDbuf k par.reverse

/-- `RSENC k, npar` (41_rs_encoder.md R120). -/
def execRsenc (k npar : Nat) (s : State) : Host.Outcome State Fault Refusal :=
  if codewordInRange k npar then .next (s.onBlock fun c => (c.encodePayload k npar).setResult .ok)
  else .next (s.onBlock (·.raise .operandRange))

end Sys2Proof.Machine
end

