-- ==== Sys2Proof/Machine/FieldEngine.lean ====
section
/-! DEFINITION. The commands of the field engine: GFMUL and GFINV. -/

namespace Sys2Proof.Machine

/-- `GFMUL a, b` (40_gf256.md R105): `RES <-` the field product. -/
def execGfmul (a b : Byte) (s : State) : Host.Outcome State Fault Refusal := .next (s.onBlock (·.setRes (gmul a b)))

/-- `GFINV a` (40_gf256.md R106, R107): `RES <-` the inverse, and `InverseOfZero` for 0. -/
def execGfinv (a : Byte) (s : State) : Host.Outcome State Fault Refusal :=
  match ginv a with
  | none => .next (s.onBlock (·.raise .inverseOfZero))
  | some r => .next (s.onBlock (·.setRes r))

end Sys2Proof.Machine
end

