-- ==== Sys2Proof/Machine/Checksum.lean ====
section
/-! DEFINITION. The checksum of the frame, `Crc8` (43_frame_codec.md R181). -/

namespace Sys2Proof.Machine

/-- One of the eight steps for a byte: shift left, and on a carried-out 1 bit take the polynomial in. -/
def crcBit (polynomial crc : Byte) : Byte :=
  if crc.getLsbD 7 then (crc <<< 1) ^^^ polynomial else crc <<< 1

/-- `n` steps of `crcBit`. -/
def crcBits (polynomial : Byte) : Nat → Byte → Byte
  | 0, crc => crc
  | n + 1, crc => crcBits polynomial n (crcBit polynomial crc)

/-- One byte taken in: exclusive-or, then eight steps, most significant bit first. -/
def crcByte (polynomial crc b : Byte) : Byte := crcBits polynomial 8 (crc ^^^ b)

/-- The CRC of a byte string under a parameter set. -/
def crcWith (p : Config.ChecksumParameters) (bytes : List Byte) : Byte :=
  bytes.foldl (crcByte p.polynomial) p.initial ^^^ p.finalXor

/-- `Crc8(bytes)` (43_frame_codec.md R181), the parameter set of `Config.checksum`. PRESUMED, log entry 3. -/
def crc8 (bytes : List Byte) : Byte := crcWith Config.checksum bytes

end Sys2Proof.Machine
end

