-- ==== Sys2Proof/Machine/Flags.lean ====
section
/-! DEFINITION. The feature bits of `CFG`, the inverted flags byte of the wire frame, and the lengths they give. -/

namespace Sys2Proof.Machine

/-- `CFG[0]`, useCompression, positive logic (10_state.md R35). -/
def usesCompression (cfg : BitVec 3) : Bool := cfg.getLsbD 0

/-- `CFG[1]`, useChecksum (10_state.md R35). -/
def usesChecksum (cfg : BitVec 3) : Bool := cfg.getLsbD 1

/-- `CFG[2]`, useFEC (10_state.md R35). -/
def usesFec (cfg : BitVec 3) : Bool := cfg.getLsbD 2

/-- The flags byte the builder sends: `0xFF` with the bit of every active feature cleared, the unused bits
3 to 7 at 1 (43_frame_codec.md R183). -/
def wireFlags (compression checksum fec : Bool) : Byte :=
  0xFF &&& ~~~(if compression then 0x01 else 0x00) &&& ~~~(if checksum then 0x02 else 0x00)
    &&& ~~~(if fec then 0x04 else 0x00)

/-- The compression flag of a received frame says active: bit 0 is 0 (43_frame_codec.md R183, 90_conflicts.md C6). -/
def compressionActive (flags : Byte) : Bool := !flags.getLsbD 0

/-- The checksum flag of a received frame says active: bit 1 is 0 (43_frame_codec.md R183). -/
def checksumActive (flags : Byte) : Bool := !flags.getLsbD 1

/-- The FEC flag of a received frame says active: bit 2 is 0 (43_frame_codec.md R183). -/
def fecActive (flags : Byte) : Bool := !flags.getLsbD 2

/-- `n`, the length of the body: the payload, and with FEC `2 * T` parity bytes (43_frame_codec.md R180). -/
def bodyLength (fec : Bool) (k t : Nat) : Nat := k + if fec then 2 * t else 0

/-- The frame length `2 + n + chk` (43_frame_codec.md R180). -/
def frameLength (checksum : Bool) (n : Nat) : Nat := 2 + n + if checksum then 1 else 0

end Sys2Proof.Machine
end

