-- ==== Sys2Proof/Machine/FrameCodec.lean ====
section
/-! DEFINITION. The frame codec: FRBUILD and FRPARSE. -/

namespace Sys2Proof.Machine

/-- The frame of `FRBUILD` after its range check (43_frame_codec.md R184): the encoder with FEC, then the header,
the body and the checksum into `FBUF`, and `FLEN`, `PLEN`, `RESULT`. `CFG` is sampled once, before anything. -/
def Block.buildFrame (s : Block) (k : Nat) : Block :=
  let compression := usesCompression s.cfg
  let checksum := usesChecksum s.cfg
  let fec := usesFec s.cfg
  let t := s.tbudget.toNat
  let s1 := if fec then s.encodePayload k (2 * t) else s
  let n := bodyLength fec k t
  let body := s1.dbuf.bytes 0 n
  let frame := [wireFlags compression checksum fec, BitVec.ofNat 8 k] ++ body
    ++ (if checksum then [crc8 body] else [])
  (((s1.writeFbuf 0 frame).setFlen (frameLength checksum n)).setPlen (BitVec.ofNat 8 k)).setResult .ok

/-- `FRBUILD k` (43_frame_codec.md R184). -/
def execFrbuild (k : Nat) (s : State) : Host.Outcome State Fault Refusal :=
  if buildInRange (usesFec s.cfg) k s.tbudget.toNat then .next (s.onBlock (·.buildFrame k))
  else .next (s.onBlock (·.raise .operandRange))

/-- The end of a parse: the checksum over the body as it stands after the repair (43_frame_codec.md R194), then
delivery (R195). -/
def Block.validateChecksum (s : Block) (checksum : Bool) (n : Nat) : Block :=
  if checksum && crc8 (s.dbuf.bytes 0 n) != s.fbuf.read (2 + n) then s.setResult .corruptChecksum
  else s.setResult .ok

/-- The body of a frame whose length fits (43_frame_codec.md R193): copied to `DBUF`, repaired with FEC, and
validated unless the decoder gave it up. -/
def Block.parseBody (s : Block) (checksum fec : Bool) (k t : Nat) : Block :=
  let n := bodyLength fec k t
  let s1 := s.writeDbuf 0 (s.fbuf.bytes 2 n)
  if fec then
    let s2 := s1.decodeCodeword k (2 * t)
    if s2.result = ResultCode.unrepairable.bits then s2 else s2.validateChecksum checksum n
  else s1.validateChecksum checksum n

/-- The parse of `FBUF[0..len-1]` after the range check (43_frame_codec.md R190 to R195). It goes by the frame's own
flags (R191), and its length is validated before anything is copied (R192). -/
def Block.parseFrame (s : Block) (len : Nat) : Block :=
  let s1 := s.setFlen len
  if len < 2 then s1.setResult .corruptLength
  else
    let flags := s.fbuf.read 0
    let k := (s.fbuf.read 1).toNat
    let s2 := (s1.setRxflags flags).setPlen (s.fbuf.read 1)
    let checksum := checksumActive flags
    let fec := fecActive flags
    let t := s.tbudget.toNat
    let n := bodyLength fec k t
    if maxCodeword < n then s2.setResult .corruptLength
    else if len ≠ frameLength checksum n then s2.setResult .corruptLength
    else s2.parseBody checksum fec k t

/-- `FRPARSE len` (43_frame_codec.md R190). -/
def execFrparse (len : Nat) (s : State) : Host.Outcome State Fault Refusal :=
  if parseInRange len then .next (s.onBlock (·.parseFrame len))
  else .next (s.onBlock (·.raise .operandRange))

end Sys2Proof.Machine
end

