-- ==== Sys2Proof/Machine/HostAccess.lean ====
section
/-! DEFINITION. The commands of the host access: WRB and RDB. -/

namespace Sys2Proof.Machine

/-- `WRB addr, data` (45_host_access.md R220, R222): an unmapped address is tested before a read-only one
(60_exceptions.md R234). -/
def execWrb (addr : Nat) (data : Byte) (s : State) : Host.Outcome State Fault Refusal :=
  match placeAt addr with
  | none => .next (s.onBlock (·.raise .addressRange))
  | some p => if p.writable then .next (s.onBlock (·.store p data)) else .next (s.onBlock (·.raise .writeToReadOnly))

/-- `RDB addr` (45_host_access.md R221): the byte of the address map into `RES`. -/
def execRdb (addr : Nat) (s : State) : Host.Outcome State Fault Refusal :=
  match placeAt addr with
  | none => .next (s.onBlock (·.raise .addressRange))
  | some p => .next (s.onBlock (·.setRes (s.load p)))

end Sys2Proof.Machine
end

