-- ==== Sys2Proof/Machine/ToneSelector.lean ====
section
/-! DEFINITION. The tone selector: TONE and LSYM. -/

namespace Sys2Proof.Machine

/-- The frequency index of a byte, `b mod 8`, its low three bits (44_tone_selector.md R210). -/
def toneIndex (b : Byte) : Byte := b &&& 0x07

/-- `TONE b` (44_tone_selector.md R210). -/
def execTone (b : Byte) (s : State) : Host.Outcome State Fault Refusal := .next (s.onBlock (·.setLine .data (toneIndex b)))

/-- Line symbol `idx` of the sequence of 44_tone_selector.md R211: the hail symbols, one data symbol for each frame
byte, and the end marker. -/
def Block.lineSymbol (s : Block) (idx : Nat) : Block :=
  let hails := s.khail.toNat
  if idx < hails then s.setLine .hail 0x00
  else if idx < hails + s.flen.toNat then s.setLine .data (toneIndex (s.fbuf.read (idx - hails)))
  else s.setLine .endMark 0x00

/-- `LSYM idx` (44_tone_selector.md R212). -/
def execLsym (idx : Nat) (s : State) : Host.Outcome State Fault Refusal :=
  if symbolInRange idx s.khail.toNat s.flen.toNat then .next (s.onBlock (·.lineSymbol idx))
  else .next (s.onBlock (·.raise .operandRange))

end Sys2Proof.Machine
end

