-- ==== Sys2Proof/Machine/Dispatch.lean ====
section
/-! DEFINITION. One arm a command: each calls the meaning of its own. -/

namespace Sys2Proof.Machine

def exec (i : Instr) (s : State) : Host.Outcome State Fault Refusal :=
  match i with
  | .gfmul a b => Sys2Proof.Machine.execGfmul a b s
  | .gfinv a => Sys2Proof.Machine.execGfinv a s
  | .wrb addr data => Sys2Proof.Machine.execWrb addr data s
  | .rdb addr => Sys2Proof.Machine.execRdb addr s
  | .rsenc k npar => Sys2Proof.Machine.execRsenc k npar s
  | .rssyn k npar => Sys2Proof.Machine.execRssyn k npar s
  | .rsdec k npar => Sys2Proof.Machine.execRsdec k npar s
  | .frbuild k => Sys2Proof.Machine.execFrbuild k s
  | .frparse len => Sys2Proof.Machine.execFrparse len s
  | .tone b => Sys2Proof.Machine.execTone b s
  | .lsym idx => Sys2Proof.Machine.execLsym idx s

end Sys2Proof.Machine
end

