-- ==== Sys2Proof/Machine/Command.lean ====
section
/-! DEFINITION. What the block does with one move of the host: a command word, or reset. -/

namespace Sys2Proof.Machine

/-- One command word (45_host_access.md R223, 60_exceptions.md R233, R234): ignored while the block is stopped;
`IllegalCommand` when it does not decode (30_encoding.md R89); else the command's meaning. -/
def execWord (w : Word) (s : State) : Host.Outcome State Fault Refusal :=
  if s.stopped then .next s
  else
    match decode w with
    | .error _ => .next (s.onBlock (·.raise .illegalCommand))
    | .ok i => exec i s

/-- One move of the host (45_host_access.md R225). -/
def applyEvent (e : HostEvent) (s : State) : Host.Outcome State Fault Refusal :=
  match e with
  | .command w => execWord w s
  | .reset => .next (s.onBlock (·.applyReset))

/-- The next pending move is taken off the port and applied. With none pending the block does nothing: it "never
acts except in response to a command" (60_exceptions.md R235). Log entry 1. -/
def stepPort (s : State) : Host.Outcome State Fault Refusal :=
  match s.port with
  | [] => .next s
  | e :: rest => applyEvent e (s.setPort rest)

/-- The state with a command word put before the pending moves. -/
def State.present (s : State) (w : Word) : State := s.setPort (.command w :: s.port)

end Sys2Proof.Machine
end

