-- ==== Sys2Proof/Machine/Step.lean ====
section
/-! DEFINITION. One step of the machine: one move of the host (20_memory.md R65, R68; 45_host_access.md R225). -/

namespace Sys2Proof.Machine

/-- One step: the next pending move of the host, applied in full. -/
def step (s : State) : Host.Outcome State Fault Refusal := stepPort s

/-- The state with the command whose first `nbits` bits are `w` (the bits above them zero) as the host's next
move, so that the next step runs it. The block fetches nothing (10_state.md R22): this stands for the host
presenting the word. Log entry 1. -/
def State.withFetchWord (s : State) (nbits w : Nat) : State := s.present (BitVec.ofNat 32 (w % 2 ^ nbits))

end Sys2Proof.Machine
end

