-- ==== Sys2Proof/Machine/Run.lean ====
section
/-! DEFINITION. The response of a command and the run of a list of the host's moves (45_host_access.md R223, R225). -/

namespace Sys2Proof.Machine

/-- What every command returns to the host: `(FAULT, RES)` (45_host_access.md R223). -/
structure Response where
  fault : BitVec 3
  res : BitVec 8
deriving DecidableEq, Repr

/-- The response is "a function of the state after the command" and no state (45_host_access.md R223). -/
def Block.response (s : Block) : Response := { fault := s.fault, res := s.res }

/-- A run of the block: the host's moves in order, with the final state and the responses to the command words; reset
returns none (45_host_access.md R225). The moves and the position in them are the parameter of the run, outside the
block's state (10_state.md R22). -/
def run (b : Block) : List HostEvent → Host.Outcome (Block × List Response) Fault Refusal
  | [] => .next (b, [])
  | .reset :: es => run b.applyReset es
  | .command w :: es =>
    match execWord w b.alone with
    | .next s =>
      match run s.toBlock es with
      | .next (c, rs) => .next (c, s.response :: rs)
      | .fault r => .fault r
      | .refused r => .refused r
    | .fault r => .fault r
    | .refused r => .refused r

end Sys2Proof.Machine
end

