-- ==== Sys2Proof/Safety.lean ====
section
/-! DEFINITION. What counts as a safe state, in the terms the claims use: the block is not stopped, and its state is one
that the rules allow. -/

namespace Sys2Proof.Machine

/-- No fault has been raised since reset (10_state.md R37): the block takes commands. -/
abbrev Block.Running (s : Block) : Prop := s.fault = 0

/-- An array in canonical form that holds no index outside its size (10_state.md R20). -/
abbrev Memory.Canonical (m : Memory) (size : Nat) : Prop := m.wf = true ∧ m.within size = true

/-- The unmapped addresses, as 45_host_access.md R220 lists them. -/
abbrev UnmappedAddress (addr : Nat) : Prop :=
  addr = 0x0FF ∨ (0x202 ≤ addr ∧ addr ≤ 0x2FF) ∨ (0x900 ≤ addr ∧ addr ≤ 0xEFF) ∨ 0xF0C ≤ addr

/-- The read-only addresses, as 45_host_access.md R220 lists them. -/
abbrev ReadOnlyAddress (addr : Nat) : Prop :=
  (0x300 ≤ addr ∧ addr ≤ 0x8FF) ∨ (0xF00 ≤ addr ∧ addr ≤ 0xF07) ∨ (0xF09 ≤ addr ∧ addr ≤ 0xF0B)

/-- What the rules say holds of the block's state at all times. -/
structure Block.Legal (s : Block) : Prop where
  dbuf : s.dbuf.Canonical dbufSize
  fbuf : s.fbuf.Canonical fbufSize
  gen : s.gen.Canonical arraySize
  par : s.par.Canonical arraySize
  syn : s.syn.Canonical arraySize
  lambda : s.lambda.Canonical arraySize
  omega : s.omega.Canonical arraySize
  errloc : s.errloc.Canonical arraySize
  /-- "3 never occurs" (10_state.md R39). -/
  resk : s.resk.toNat ≤ 2
  /-- "0 to 258" (10_state.md R32). -/
  flen : s.flen.toNat ≤ 258
  /-- "codes 6 and 7 never occur" (60_exceptions.md R231). -/
  fault : s.fault.toNat ≤ 5
  /-- `TBUDGET` is constant (10_state.md R36). -/
  tbudget : s.tbudget = BitVec.ofNat 8 Config.tErr
  /-- `KHAIL` is constant (10_state.md R38). -/
  khail : s.khail = BitVec.ofNat 8 Config.kHail
  /-- `SYNNZ` says whether a syndrome is nonzero (10_state.md R30, 42_rs_decoder.md R142). -/
  synnz : s.synnz = 1 ↔ ∃ j, s.syn.read j ≠ 0
  /-- `LAMBDA[0] = 1` after every `RSDEC`, and 0 with all of `LAMBDA` until the first (10_state.md R27, R41). -/
  locator : s.lambda.read 0 = 1 ∨ ∀ j, s.lambda.read j = 0
  /-- `ERRLOC` holds `NERR` locations and zeros (10_state.md R27). -/
  locations : ∀ j, s.nerr.toNat ≤ j → s.errloc.read j = 0

end Sys2Proof.Machine
end

