-- ==== Sys2Proof/Certificates/Slice0/Obligations.lean ====
section
/-! DEFINITION. The statements about the block, for the provers. -/

open Sys2Proof Sys2Proof.Machine

/-! ## Encoding -/

/-- A word of each of the eleven rows, written out from 30_encoding.md R80 to R82, decodes to its command. -/
def Obligations.DecodesWrittenOutWords : Prop :=
  decode 0x0153CA00#32 = .ok (.gfmul 0x53 0xCA) ∧
  decode 0x02530000#32 = .ok (.gfinv 0x53) ∧
  decode 0x10010253#32 = .ok (.wrb 0x102 0x53) ∧
  decode 0x110F0900#32 = .ok (.rdb 0xF09) ∧
  decode 0x20030400#32 = .ok (.rsenc 3 4) ∧
  decode 0x21030400#32 = .ok (.rssyn 3 4) ∧
  decode 0x22030400#32 = .ok (.rsdec 3 4) ∧
  decode 0x30FB0000#32 = .ok (.frbuild 251) ∧
  decode 0x31010200#32 = .ok (.frparse 258) ∧
  decode 0x40FD0000#32 = .ok (.tone 0xFD) ∧
  decode 0x41000A00#32 = .ok (.lsym 10)

/-- 30_encoding.md R82: "a word `w` is the command of a row exactly when `w & mask == match`". -/
def Obligations.DecodeMatchesTheTable : Prop :=
  ∀ (w : Word) (o : Opcode), (∃ i, decode w = .ok i ∧ i.opcode = o) ↔ w &&& o.mask = o.pattern

/-- Decoding the word of a command gives the command back, for every operand its fields admit (30_encoding.md R85, R89). -/
def Obligations.DecodeOfEncode : Prop :=
  ∀ i : Instr, i.WellFormed → decode (encode i) = .ok i

/-- A word that decodes is the word of its command, and the command's operands fit (30_encoding.md R83, R85, R89). -/
def Obligations.EncodeOfDecode : Prop :=
  ∀ (w : Word) (i : Instr), decode w = .ok i → i.WellFormed ∧ encode i = w

/-- 30_encoding.md R83: a nonzero must-be-zero field makes the word illegal; it raises `IllegalCommand` and does
nothing else. The must-be-zero bits of a row are those of its mask below the opcode. -/
def Obligations.MustBeZeroFieldIsIllegal : Prop :=
  ∀ (s : State) (w : Word) (o : Opcode), s.fault = 0 →
    fieldOp w = o.code → w &&& (o.mask &&& 0x00FFFFFF#32) ≠ 0 →
    execWord w s = .next { s with fault := 1 }

/-- 30_encoding.md R84: the opcode values outside the table are illegal, each raising `IllegalCommand` (60_exceptions.md
R231). -/
def Obligations.ReservedOpcodesAreIllegal : Prop :=
  ∀ (s : State) (w : Word) (n : Nat), s.fault = 0 → (fieldOp w).toNat = n →
    (n = 0x00 ∨ (0x03 ≤ n ∧ n ≤ 0x0F) ∨ (0x12 ≤ n ∧ n ≤ 0x1F) ∨ (0x23 ≤ n ∧ n ≤ 0x2F) ∨
      (0x32 ≤ n ∧ n ≤ 0x3F) ∨ 0x42 ≤ n) →
    execWord w s = .next { s with fault := 1 }

/-! ## Steps, faults, reset -/

/-- A step runs the decoded command on the state without the move it took (45_host_access.md R223, R225;
60_exceptions.md R233), and every other move as `applyEvent` says. The port and the idle step are the model's choice,
log entry 1. -/
def Obligations.StepRunsTheDecodedCommand : Prop :=
  (∀ (s : State) (w : Word) (rest : List HostEvent) (i : Instr),
    s.port = .command w :: rest → s.fault = 0 → decode w = .ok i →
    step s = exec i { s with port := rest }) ∧
  (∀ (s : State) (w : Word) (i : Instr),
    s.fault = 0 → decode w = .ok i → step (s.withFetchWord 32 w.toNat) = exec i s) ∧
  (∀ (s : State) (e : HostEvent) (rest : List HostEvent),
    s.port = e :: rest → step s = applyEvent e { s with port := rest }) ∧
  ∀ s : State, s.port = [] → step s = .next s

/-- Every command and every step has a next state: no fault, refusal or result stops the model (60_exceptions.md R230 to
R233), and a step takes exactly one move of the host (the port is the model's choice, log entry 1). -/
def Obligations.EveryStepCompletes : Prop :=
  (∀ (i : Instr) (s : State), ∃ t, exec i s = .next t ∧ t.port = s.port) ∧
  ∀ s : State, ∃ t, step s = .next t ∧ t.port = s.port.tail

/-- 60_exceptions.md R233: while `FAULT != 0` every command word, legal or not, changes no state, and the response is
`(FAULT, RES)` with both unchanged. -/
def Obligations.FaultedBlockIgnoresCommands : Prop :=
  ∀ (s : State) (w : Word), s.fault ≠ 0 →
    execWord w s = .next s ∧ run s.toBlock [.command w] = .next (s.toBlock, [{ fault := s.fault, res := s.res }])

/-- 60_exceptions.md R237: nothing but reset leads from a faulted state to one without a fault, and reset clears
everything but the two constant registers. That the host's later moves stay on the port is the model's choice, log
entries 1 and 6. -/
def Obligations.OnlyResetClearsFault : Prop :=
  ∀ s t : State, step s = .next t → s.fault ≠ 0 → t.fault ≠ s.fault →
    ∃ rest, s.port = .reset :: rest ∧
      t = { State.reset with tbudget := s.tbudget, khail := s.khail, port := rest }

/-- 60_exceptions.md R232: a command word that raises a fault writes `FAULT` and nothing else, and the response is the
code and the old `RES`. -/
def Obligations.FaultEntryWritesOnlyFault : Prop :=
  ∀ (s t : State) (w : Word), s.fault = 0 → execWord w s = .next t → t.fault ≠ 0 →
    t = { s with fault := t.fault } ∧ t.fault.toNat ≤ 5 ∧
    run s.toBlock [.command w] = .next (t.toBlock, [{ fault := t.fault, res := s.res }])

/-- The table of 60_exceptions.md R231: which fault each command raises and on which operands, and that it raises none
on all others. -/
def Obligations.FaultTable : Prop :=
  ∀ (i : Instr) (s : State), i.WellFormed → s.fault = 0 → ∃ t, exec i s = .next t ∧
    t.fault = match i with
      | .gfmul _ _ => 0
      | .gfinv a => if a = 0 then 5 else 0
      | .wrb addr _ => if UnmappedAddress addr then 2 else if ReadOnlyAddress addr then 3 else 0
      | .rdb addr => if UnmappedAddress addr then 2 else 0
      | .rsenc k npar => if npar = 0 ∨ 255 < k + npar then 4 else 0
      | .rssyn k npar => if npar = 0 ∨ 255 < k + npar then 4 else 0
      | .rsdec k npar => if npar = 0 ∨ 255 < k + npar then 4 else 0
      | .frbuild k => if s.cfg.getLsbD 2 = true ∧ 255 < k + 2 * s.tbudget.toNat then 4 else 0
      | .frparse len => if 258 < len then 4 else 0
      | .tone _ => 0
      | .lsym idx => if s.khail.toNat + s.flen.toNat < idx then 4 else 0

/-- The three coding commands refuse the same operands with `OperandRange` and change nothing else (41_rs_encoder.md R120,
42_rs_decoder.md R140, R143). -/
def Obligations.CodewordOutOfRangeFaults : Prop :=
  ∀ (k npar : Nat) (s : State), npar = 0 ∨ 255 < k + npar →
    exec (.rsenc k npar) s = .next { s with fault := 4 } ∧
    exec (.rssyn k npar) s = .next { s with fault := 4 } ∧
    exec (.rsdec k npar) s = .next { s with fault := 4 }

/-- 70_reset_and_hazards.md R261: every piece of state after reset. -/
def Obligations.ResetValues : Prop :=
  (∀ i, State.reset.dbuf.read i = 0 ∧ State.reset.fbuf.read i = 0 ∧ State.reset.gen.read i = 0 ∧
    State.reset.par.read i = 0 ∧ State.reset.syn.read i = 0 ∧ State.reset.lambda.read i = 0 ∧
    State.reset.omega.read i = 0 ∧ State.reset.errloc.read i = 0) ∧
  State.reset.res = 0 ∧ State.reset.resk = 0 ∧ State.reset.result = 0 ∧ State.reset.synnz = 0 ∧
  State.reset.nerr = 0 ∧ State.reset.flen = 0 ∧ State.reset.plen = 0 ∧ State.reset.cfg = 0 ∧
  State.reset.fault = 0 ∧ State.reset.rxflags = 0xFF ∧
  State.reset.tbudget.toNat = Config.tErr ∧ 1 ≤ Config.tErr ∧ Config.tErr ≤ 127 ∧
  State.reset.khail.toNat = Config.kHail ∧ 1 ≤ Config.kHail ∧ Config.kHail ≤ 255 ∧
  ∀ k npar t, exec (.rssyn k npar) State.reset = .next t → t.synnz = 0

/-- 70_reset_and_hazards.md R260: reset gives the reset state whatever the state was, and "nothing survives it except the
constant tables and the two constant registers"; the host's later moves stay (log entry 6, the model's choice). -/
def Obligations.ResetEventGivesResetState : Prop :=
  ∀ (s : State) (rest : List HostEvent), s.port = .reset :: rest →
    step s = .next { State.reset with tbudget := s.tbudget, khail := s.khail, port := rest } ∧
    (s.Legal → step s = .next { State.reset with port := rest })

/-- 45_host_access.md R221: what every mapped address reads right after reset. -/
def Obligations.ReadsAfterReset : Prop :=
  ∀ addr : Nat, ¬ UnmappedAddress addr →
    exec (.rdb addr) State.reset = .next { State.reset with
      res := if addr = 0xF09 then 0xFF else if addr = 0xF0A then BitVec.ofNat 8 Config.tErr
        else if addr = 0xF0B then BitVec.ofNat 8 Config.kHail else 0 }

/-- The reset state is legal. -/
def Obligations.ResetIsLegal : Prop := State.reset.Legal

/-- Every step from a legal state leads to a legal state: the arrays keep their canonical form and size, `RESK`, `FLEN`
and `FAULT` their ranges, the constant registers their values, and `SYNNZ`, `LAMBDA[0]` and `ERRLOC` what
10_state.md R27, R30 and R31 say of them. -/
def Obligations.StepKeepsLegal : Prop :=
  ∀ s t : State, s.Legal → step s = .next t → t.Legal

/-- A run of the host's moves on the block (45_host_access.md R225) is the same as that many steps with the moves on the
port, and has one response a command word. The port is the model's choice, log entry 1. -/
def Obligations.RunAgreesWithSteps : Prop :=
  ∀ (es : List HostEvent) (b : Block), ∃ c rs,
    run b es = .next (c, rs) ∧
    Host.Core.run Sys2Proof.core es.length ({ toBlock := b, port := es } : State) =
      .next ({ toBlock := c, port := [] } : State) ∧
    rs.length = (es.filter (· ≠ HostEvent.reset)).length

/-- 10_state.md R40: the outputs `RES`, `RESK`, `RESULT`, `SYNNZ` and `NERR` steer no command: two states that differ in
them only lead to states that differ in them only. -/
def Obligations.OutputsSteerNothing : Prop :=
  ∀ (i : Instr) (s t : State) (res : BitVec 8) (resk result : BitVec 2) (synnz : BitVec 1) (nerr : BitVec 8),
    exec i s = .next t →
    ∃ t', exec i { s with res := res, resk := resk, result := result, synnz := synnz, nerr := nerr } = .next t' ∧
      t' = { t with res := t'.res, resk := t'.resk, result := t'.result, synnz := t'.synnz, nerr := t'.nerr }

/-! ## Field engine -/

/-- 40_gf256.md R104, R105: `GFMUL` gives the product of the polynomials modulo `x^8+x^4+x^3+x^2+1`, for all operands, and
writes `RES` only. -/
def Obligations.GfmulIsThePolynomialProduct : Prop :=
  ∀ (a b : Byte) (s : State), exec (.gfmul a b) s = .next { s with res := polynomialProduct a b }

/-- 40_gf256.md R104: the product is the polynomial product, it is commutative, associative, distributes over exclusive-or,
has 1 as its unit, and is zero exactly when an operand is. -/
def Obligations.FieldLaws : Prop :=
  ∀ a b c : Byte,
    gmul a b = polynomialProduct a b ∧ gmul a b = gmul b a ∧ gmul (gmul a b) c = gmul a (gmul b c) ∧
    gmul a (b ^^^ c) = gmul a b ^^^ gmul a c ∧ gmul 1 a = a ∧ (gmul a b = 0 ↔ a = 0 ∨ b = 0)

/-- 40_gf256.md R106: for `a != 0`, `GFINV` gives the unique byte whose product with `a` is 1, which is `α^(255-e)` for
`a = α^e`, and writes `RES` only; for `a = 0` it raises `InverseOfZero`. -/
def Obligations.GfinvGivesTheUniqueInverse : Prop :=
  (∀ (a : Byte) (s : State), a ≠ 0 →
    ∃ r, exec (.gfinv a) s = .next { s with res := r } ∧ gmul a r = 1 ∧ (∀ r', gmul a r' = 1 → r' = r) ∧
      ∀ e, e < 255 → apow e = a → r = apow ((255 - e) % 255)) ∧
  ∀ s : State, exec (.gfinv 0) s = .next { s with fault := 5 }

/-- 40_gf256.md R107: `GFINV 0` raises `InverseOfZero` and changes nothing else; the block then ignores every command;
the decoder never raises it. -/
def Obligations.InverseOfZeroFaults : Prop :=
  (∀ s : State, exec (.gfinv 0) s = .next { s with fault := 5 }) ∧
  (∀ (s : State) (w : Word), execWord w { s with fault := 5 } = .next { s with fault := 5 }) ∧
  ∀ (k npar : Nat) (s t : State), s.fault = 0 → exec (.rsdec k npar) s = .next t → t.fault ≠ 5

/-- 40_gf256.md R102, R103: the table of exponents follows the recurrence and returns to 1 first after 255 steps, and the
table of logarithms is its inverse, with no entry for 0. -/
def Obligations.TablesFollowTheRecurrence : Prop :=
  apow 0 = 1 ∧ (∀ i, i < 254 → apow (i + 1) = timesAlpha (apow i)) ∧ timesAlpha (apow 254) = 1 ∧
  gfLog 0 = none ∧
  ∀ a : Byte, a ≠ 0 → ∃ i, i < 255 ∧ gfLog a = some i ∧ apow i = a ∧ ∀ j, j < 255 → apow j = a → j = i

/-! ## Host access -/

/-- 45_host_access.md R220, R222: `WRB` writes one byte of `DBUF` or `FBUF`, or the three bits of `CFG`, and nothing else. -/
def Obligations.WrbWritesOneByte : Prop :=
  (∀ (s : State) (addr : Nat) (data : Byte), addr ≤ 0x0FE →
    ∃ t, exec (.wrb addr data) s = .next t ∧ t = { s with dbuf := t.dbuf } ∧
      t.dbuf.read addr = data ∧ ∀ i, i ≠ addr → t.dbuf.read i = s.dbuf.read i) ∧
  (∀ (s : State) (j : Nat) (data : Byte), j ≤ 0x101 →
    ∃ t, exec (.wrb (0x100 + j) data) s = .next t ∧ t = { s with fbuf := t.fbuf } ∧
      t.fbuf.read j = data ∧ ∀ i, i ≠ j → t.fbuf.read i = s.fbuf.read i) ∧
  ∀ (s : State) (data : Byte), exec (.wrb 0xF08 data) s = .next { s with cfg := data.extractLsb' 0 3 }

/-- 45_host_access.md R220: the addresses `WRB` refuses, each with its fault, and that it writes nothing then. -/
def Obligations.WrbRefusesTheRest : Prop :=
  ∀ (s : State) (addr : Nat) (data : Byte),
    (UnmappedAddress addr → exec (.wrb addr data) s = .next { s with fault := 2 }) ∧
    (ReadOnlyAddress addr → exec (.wrb addr data) s = .next { s with fault := 3 })

/-- 20_memory.md R61, 45_host_access.md R221: `RDB` reads what the address map says, zeros above a narrow register, and
writes `RES` only; an unmapped address faults. -/
def Obligations.RdbReadsTheMap : Prop :=
  ∀ s : State,
    (∀ i, i < 255 → exec (.rdb i) s = .next { s with res := s.dbuf.read i }) ∧
    (∀ i, i < 258 → exec (.rdb (0x100 + i)) s = .next { s with res := s.fbuf.read i }) ∧
    (∀ i, i < 256 →
      exec (.rdb (0x300 + i)) s = .next { s with res := s.gen.read i } ∧
      exec (.rdb (0x400 + i)) s = .next { s with res := s.par.read i } ∧
      exec (.rdb (0x500 + i)) s = .next { s with res := s.syn.read i } ∧
      exec (.rdb (0x600 + i)) s = .next { s with res := s.lambda.read i } ∧
      exec (.rdb (0x700 + i)) s = .next { s with res := s.omega.read i } ∧
      exec (.rdb (0x800 + i)) s = .next { s with res := s.errloc.read i }) ∧
    exec (.rdb 0xF00) s = .next s ∧
    exec (.rdb 0xF01) s = .next { s with res := 0#6 ++ s.resk } ∧
    exec (.rdb 0xF02) s = .next { s with res := 0#6 ++ s.result } ∧
    exec (.rdb 0xF03) s = .next { s with res := 0#7 ++ s.synnz } ∧
    exec (.rdb 0xF04) s = .next { s with res := s.nerr } ∧
    exec (.rdb 0xF05) s = .next { s with res := BitVec.ofNat 8 (s.flen.toNat % 256) } ∧
    exec (.rdb 0xF06) s = .next { s with res := BitVec.ofNat 8 (s.flen.toNat / 256) } ∧
    exec (.rdb 0xF07) s = .next { s with res := s.plen } ∧
    exec (.rdb 0xF08) s = .next { s with res := 0#5 ++ s.cfg } ∧
    exec (.rdb 0xF09) s = .next { s with res := s.rxflags } ∧
    exec (.rdb 0xF0A) s = .next { s with res := s.tbudget } ∧
    exec (.rdb 0xF0B) s = .next { s with res := s.khail } ∧
    ∀ addr, UnmappedAddress addr → exec (.rdb addr) s = .next { s with fault := 2 }

/-- A byte written is the byte read back; of `CFG` the low three bits are (45_host_access.md R220 to R222). -/
def Obligations.WriteThenReadBack : Prop :=
  ∀ (s t : State) (addr : Nat) (data : Byte),
    ¬ UnmappedAddress addr → ¬ ReadOnlyAddress addr → exec (.wrb addr data) s = .next t →
    exec (.rdb addr) t = .next { t with res := if addr = 0xF08 then data &&& 0x07 else data }

/-- 20_memory.md R66: a read changes `RES` only and reads the same again; a write changes its byte only, so that every
other address reads as before, and writing again changes nothing. -/
def Obligations.AccessesAreIdempotent : Prop :=
  (∀ (s t : State) (addr : Nat), ¬ UnmappedAddress addr → exec (.rdb addr) s = .next t →
    t = { s with res := t.res } ∧ exec (.rdb addr) t = .next t) ∧
  ∀ (s t : State) (addr : Nat) (data : Byte),
    ¬ UnmappedAddress addr → ¬ ReadOnlyAddress addr → exec (.wrb addr data) s = .next t →
    t = { s with dbuf := t.dbuf, fbuf := t.fbuf, cfg := t.cfg } ∧ exec (.wrb addr data) t = .next t ∧
    ∀ (addr' : Nat) (u v : State), addr' ≠ addr →
      exec (.rdb addr') s = .next u → exec (.rdb addr') t = .next v → v.res = u.res

/-! ## Reed-Solomon encoder -/

/-- 41_rs_encoder.md R120, R123: `RSENC` completes on every legal operand pair, appends the register in reverse order,
leaves the payload and the bytes above the codeword, and writes `GEN`, `PAR`, `DBUF` and `RESULT` only. -/
def Obligations.RsencAppendsTheParity : Prop :=
  ∀ (k npar : Nat) (s : State), npar ≠ 0 → k + npar ≤ 255 →
    ∃ t, exec (.rsenc k npar) s = .next t ∧
      t = { s with gen := t.gen, par := t.par, dbuf := t.dbuf, result := 0 } ∧
      (∀ i, i < k ∨ k + npar ≤ i → t.dbuf.read i = s.dbuf.read i) ∧
      (∀ i, i < npar → t.dbuf.read (k + i) = t.par.read (npar - 1 - i)) ∧
      (∀ j, npar ≤ j → t.par.read j = 0) ∧
      t.gen.read npar = 1 ∧ ∀ j, npar < j → t.gen.read j = 0

/-- 41_rs_encoder.md R121: `GEN` is the product of `(x + α^i)`: one more parity byte multiplies it by one more factor, its
roots are `α^1` to `α^npar`, and `GEN[0]` is `α^(1+...+npar)`, never zero. -/
def Obligations.GeneratorPolynomialHasItsRoots : Prop :=
  (∀ (k npar : Nat) (s t : State), npar ≠ 0 → k + npar ≤ 255 → exec (.rsenc k npar) s = .next t →
    t.gen.read 0 = apow (npar * (npar + 1) / 2) ∧ t.gen.read 0 ≠ 0 ∧
    ∀ i, 1 ≤ i → i ≤ npar → xorSum (npar + 1) (fun j => gmul (t.gen.read j) (apow (i * j))) = 0) ∧
  ∀ (k npar : Nat) (s t u : State), npar ≠ 0 → k + (npar + 1) ≤ 255 →
    exec (.rsenc k npar) s = .next t → exec (.rsenc k (npar + 1)) s = .next u →
    ∀ j, u.gen.read j = (if j = 0 then 0 else t.gen.read (j - 1)) ^^^ gmul (t.gen.read j) (apow (npar + 1))

/-- 41_rs_encoder.md R126: the encoded word, read highest degree first, is zero at `α^1` to `α^npar`, and `RSSYN` straight
after `RSENC` finds every syndrome zero. -/
def Obligations.EncodedWordHasZeroSyndromes : Prop :=
  ∀ (k npar : Nat) (s t u : State), npar ≠ 0 → k + npar ≤ 255 →
    exec (.rsenc k npar) s = .next t → exec (.rssyn k npar) t = .next u →
    (∀ j, 1 ≤ j → j ≤ npar →
      xorSum (k + npar) (fun i => gmul (t.dbuf.read i) (apow (j * (k + npar - 1 - i)))) = 0) ∧
    u.synnz = 0 ∧ ∀ j, u.syn.read j = 0

/-- 41_rs_encoder.md R125: the parity of the bytewise exclusive-or of two payloads is that of their parities. -/
def Obligations.EncoderIsLinear : Prop :=
  ∀ (k npar : Nat) (s1 s2 s3 t1 t2 t3 : State), npar ≠ 0 → k + npar ≤ 255 →
    (∀ i, i < k → s3.dbuf.read i = s1.dbuf.read i ^^^ s2.dbuf.read i) →
    exec (.rsenc k npar) s1 = .next t1 → exec (.rsenc k npar) s2 = .next t2 → exec (.rsenc k npar) s3 = .next t3 →
    ∀ i, i < npar → t3.dbuf.read (k + i) = t1.dbuf.read (k + i) ^^^ t2.dbuf.read (k + i)

/-- 41_rs_encoder.md R125: running `RSENC` twice gives the same state as running it once. -/
def Obligations.RsencTwiceIsOnce : Prop :=
  ∀ (k npar : Nat) (s t : State), s.dbuf.wf = true → npar ≠ 0 → k + npar ≤ 255 →
    exec (.rsenc k npar) s = .next t → exec (.rsenc k npar) t = .next t

/-! ## Reed-Solomon decoder -/

/-- 42_rs_decoder.md R140 to R142: `RSSYN` completes on every legal operand pair, its syndromes are the codeword polynomial
at `α^1` to `α^npar`, `SYNNZ` says whether one is nonzero, and nothing else is written. -/
def Obligations.RssynComputesTheSyndromes : Prop :=
  ∀ (k npar : Nat) (s : State), npar ≠ 0 → k + npar ≤ 255 →
    ∃ t, exec (.rssyn k npar) s = .next t ∧ t = { s with syn := t.syn, synnz := t.synnz } ∧
      (∀ j, j < npar → t.syn.read j =
        xorSum (k + npar) fun i => gmul (s.dbuf.read i) (apow ((j + 1) * (k + npar - 1 - i)))) ∧
      (∀ j, npar ≤ j → t.syn.read j = 0) ∧
      (t.synnz = 1 ↔ ∃ j, j < npar ∧ t.syn.read j ≠ 0)

/-- 42_rs_decoder.md R143, R156: `RSDEC` completes on every legal operand pair; what holds after it; what it writes. -/
def Obligations.RsdecOutcomes : Prop :=
  ∀ (k npar : Nat) (s : State), npar ≠ 0 → k + npar ≤ 255 →
    ∃ t, exec (.rsdec k npar) s = .next t ∧
      t = { s with dbuf := t.dbuf, syn := t.syn, synnz := t.synnz, lambda := t.lambda, omega := t.omega,
                   errloc := t.errloc, nerr := t.nerr, result := t.result } ∧
      (∀ i, k + npar ≤ i → t.dbuf.read i = s.dbuf.read i) ∧
      (∀ u, exec (.rssyn k npar) s = .next u → t.syn = u.syn ∧ t.synnz = u.synnz) ∧
      t.lambda.read 0 = 1 ∧
      (t.synnz = 0 → t.result = 0 ∧ t.nerr = 0 ∧ (∀ j, t.lambda.read j = if j = 0 then 1 else 0) ∧
        (∀ j, t.omega.read j = 0) ∧ t.dbuf = s.dbuf) ∧
      (t.result = 2 → t.synnz = 1 ∧ t.dbuf = s.dbuf) ∧
      (t.result = 0 ∨ t.result = 2)

/-- 42_rs_decoder.md R144 to R147: the iteration fits the syndromes: at its end the polynomial `psi`, whose constant
coefficient is 1 and whose degree is at most `L`, gives discrepancy zero at every index from `L` on; and after every `RSDEC`
with a nonzero syndrome, repairable or not, `LAMBDA` is that polynomial for the syndromes in `SYN`. -/
def Obligations.SolverFitsTheSyndromes : Prop :=
  (∀ (syn : List Byte) (npar : Nat), coeff (solverAfter syn npar).psi 0 = 1 ∧ (solverAfter syn npar).len ≤ npar ∧
    (∀ i, (solverAfter syn npar).len < i → coeff (solverAfter syn npar).psi i = 0) ∧
    ∀ j, (solverAfter syn npar).len ≤ j → j < npar →
      xorSum ((solverAfter syn npar).len + 1)
        (fun i => gmul (coeff (solverAfter syn npar).psi i) (coeff syn (j - i))) = 0) ∧
  ∀ (k npar : Nat) (s t : State), npar ≠ 0 → k + npar ≤ 255 → exec (.rsdec k npar) s = .next t → t.synnz = 1 →
    ∀ j, t.lambda.read j = coeff (solverAfter (t.syn.bytes 0 npar) npar).psi j

/-- 42_rs_decoder.md R148, R149: after a decode with a nonzero syndrome, `OMEGA` is `LAMBDA * S` modulo `x^npar`, and
`ERRLOC` lists exactly the locations whose elements are roots of `LAMBDA`, in falling order. -/
def Obligations.EvaluatorAndRootSearch : Prop :=
  ∀ (k npar : Nat) (s t : State), npar ≠ 0 → k + npar ≤ 255 →
    exec (.rsdec k npar) s = .next t → t.synnz = 1 →
    (∀ j, j < npar → t.omega.read j = xorSum (j + 1) fun i => gmul (t.lambda.read i) (t.syn.read (j - i))) ∧
    (∀ j, npar ≤ j → t.omega.read j = 0) ∧ (∀ j, npar < j → t.lambda.read j = 0) ∧
    (∀ i, i < 255 → ((∃ r, r < t.nerr.toNat ∧ (t.errloc.read r).toNat = i) ↔
      xorSum (npar + 1) (fun j => gmul (apow (j * (255 - i))) (t.lambda.read j)) = 0)) ∧
    (∀ r r', r < r' → r' < t.nerr.toNat → (t.errloc.read r').toNat < (t.errloc.read r).toNat) ∧
    ∀ r, t.nerr.toNat ≤ r → t.errloc.read r = 0

/-- 42_rs_decoder.md R149, R151: the search finds at most `npar` roots, so the test for too many never succeeds. -/
def Obligations.RootsBoundedByParity : Prop :=
  ∀ (k npar : Nat) (s t : State), npar ≠ 0 → k + npar ≤ 255 →
    exec (.rsdec k npar) s = .next t → t.nerr.toNat ≤ npar

/-- 42_rs_decoder.md R150 to R155: with a nonzero syndrome the decode succeeds exactly when a root was found, not more than
`npar`, every location lies in the codeword and no derivative is zero; then each located byte is corrected by the
quotient of evaluator and derivative and no other byte changes; else `DBUF` is as before. -/
def Obligations.RepairIsAllOrNothing : Prop :=
  ∀ (k npar : Nat) (s t : State), npar ≠ 0 → k + npar ≤ 255 →
    exec (.rsdec k npar) s = .next t → t.synnz = 1 →
    let loc (r : Nat) : Nat := (t.errloc.read r).toNat
    let num (r : Nat) : Byte := xorSum npar fun j => gmul (t.omega.read j) (apow ((255 - loc r) * j))
    let den (r : Nat) : Byte := xorSum (npar + 1) fun j =>
      if j % 2 = 1 then gmul (t.lambda.read j) (apow ((255 - loc r) * (j - 1))) else 0
    let passes : Prop := t.nerr ≠ 0 ∧ t.nerr.toNat ≤ npar ∧
      ∀ r, r < t.nerr.toNat → loc r < k + npar ∧ den r ≠ 0
    (¬ passes → t.result = 2 ∧ t.dbuf = s.dbuf) ∧
    (passes → t.result = 0 ∧
      (∀ r, r < t.nerr.toNat → ∃ e, gmul e (den r) = num r ∧
        t.dbuf.read (k + npar - 1 - loc r) = s.dbuf.read (k + npar - 1 - loc r) ^^^ e) ∧
      ∀ i, (∀ r, r < t.nerr.toNat → k + npar - 1 - loc r ≠ i) → t.dbuf.read i = s.dbuf.read i)

/-- An encoded word decodes unmodified: `RSENC` then `RSDEC` (41_rs_encoder.md R126, 42_rs_decoder.md R156). -/
def Obligations.CleanCodewordIsAccepted : Prop :=
  ∀ (k npar : Nat) (s t u : State), npar ≠ 0 → k + npar ≤ 255 →
    exec (.rsenc k npar) s = .next t → exec (.rsdec k npar) t = .next u →
    u.result = 0 ∧ u.synnz = 0 ∧ u.nerr = 0 ∧ u.dbuf = t.dbuf

/-- One damaged byte anywhere in the codeword is located and repaired, with any parity count of at least 2
(42_rs_decoder.md R159 for one error). -/
def Obligations.OneByteErrorIsRepaired : Prop :=
  ∀ (k npar i : Nat) (data : Byte) (s t d u : State), 2 ≤ npar → k + npar ≤ 255 → i < k + npar →
    exec (.rsenc k npar) s = .next t → exec (.wrb i data) t = .next d → exec (.rsdec k npar) d = .next u →
    u.result = 0 ∧ (∀ j, u.dbuf.read j = t.dbuf.read j) ∧
    (data ≠ t.dbuf.read i → u.nerr = 1 ∧ (u.errloc.read 0).toNat = k + npar - 1 - i)

/-- 42_rs_decoder.md R159: a word that differs from an encoded one in at most `floor(npar/2)` bytes is repaired to it, with
`NERR` the number of differing bytes and `ERRLOC` their locations. -/
def Obligations.RepairsUpToTheBudget : Prop :=
  ∀ (k npar : Nat) (s t u : State) (received : Memory), npar ≠ 0 → k + npar ≤ 255 →
    exec (.rsenc k npar) s = .next t →
    ((List.range (k + npar)).filter fun i => received.read i ≠ t.dbuf.read i).length ≤ npar / 2 →
    exec (.rsdec k npar) { t with dbuf := received } = .next u →
    u.result = 0 ∧ (∀ i, i < k + npar → u.dbuf.read i = t.dbuf.read i) ∧
    u.nerr.toNat = ((List.range (k + npar)).filter fun i => received.read i ≠ t.dbuf.read i).length ∧
    ∀ i, i < k + npar → (received.read i ≠ t.dbuf.read i ↔
      ∃ r, r < u.nerr.toNat ∧ (u.errloc.read r).toNat = k + npar - 1 - i)

/-- 42_rs_decoder.md R142: a word that differs from an encoded one in 1 to `npar` bytes has a nonzero syndrome. -/
def Obligations.DamageIsDetected : Prop :=
  ∀ (k npar : Nat) (s t u : State) (received : Memory), npar ≠ 0 → k + npar ≤ 255 →
    exec (.rsenc k npar) s = .next t →
    1 ≤ ((List.range (k + npar)).filter fun i => received.read i ≠ t.dbuf.read i).length →
    ((List.range (k + npar)).filter fun i => received.read i ≠ t.dbuf.read i).length ≤ npar →
    exec (.rssyn k npar) { t with dbuf := received } = .next u → u.synnz = 1

/-! ## Frame codec -/

/-- 43_frame_codec.md R180 to R184: `FRBUILD` completes when the body fits, the frame it leaves in `FBUF`, what it takes from
the encoder, and everything it leaves. The flags byte is five 1 bits above the inverted bits of `CFG`. -/
def Obligations.FrbuildWritesTheFrame : Prop :=
  ∀ (k : Nat) (s : State),
    let fec := s.cfg.getLsbD 2
    let chk := s.cfg.getLsbD 1
    let t2 := 2 * s.tbudget.toNat
    let n := k + if fec then t2 else 0
    k ≤ 255 → (fec = true → t2 ≠ 0 ∧ k + t2 ≤ 255) →
    ∃ t, exec (.frbuild k) s = .next t ∧
      t = { s with dbuf := t.dbuf, fbuf := t.fbuf, gen := t.gen, par := t.par, flen := t.flen,
                   plen := BitVec.ofNat 8 k, result := 0 } ∧
      t.flen.toNat = 2 + n + (if chk then 1 else 0) ∧
      t.fbuf.read 0 = 0x1F#5 ++ ~~~s.cfg ∧ t.fbuf.read 1 = BitVec.ofNat 8 k ∧
      (∀ i, i < n → t.fbuf.read (2 + i) = t.dbuf.read i) ∧
      (chk = true → t.fbuf.read (2 + n) = crc8 (t.dbuf.bytes 0 n)) ∧
      (∀ i, t.flen.toNat ≤ i → t.fbuf.read i = s.fbuf.read i) ∧
      (fec = false → t.dbuf = s.dbuf ∧ t.gen = s.gen ∧ t.par = s.par) ∧
      (fec = true → ∃ u, exec (.rsenc k t2) s = .next u ∧ t.dbuf = u.dbuf ∧ t.gen = u.gen ∧ t.par = u.par)

/-- 43_frame_codec.md R192: the frames `FRPARSE` rejects for their length, with `RESULT = 3`, and that nothing of `DBUF` is
written then; a length that `FBUF` cannot hold faults (R190). -/
def Obligations.FrparseRejectsBadLengths : Prop :=
  ∀ (len : Nat) (s : State),
    let fec := !(s.fbuf.read 0).getLsbD 2
    let chk := !(s.fbuf.read 0).getLsbD 1
    let n := (s.fbuf.read 1).toNat + if fec then 2 * s.tbudget.toNat else 0
    (258 < len → exec (.frparse len) s = .next { s with fault := 4 }) ∧
    (len < 2 → exec (.frparse len) s = .next { s with flen := BitVec.ofNat 9 len, result := 3 }) ∧
    (2 ≤ len → len ≤ 258 → (255 < n ∨ len ≠ 2 + n + if chk then 1 else 0) →
      exec (.frparse len) s = .next { s with flen := BitVec.ofNat 9 len, rxflags := s.fbuf.read 0,
                                             plen := s.fbuf.read 1, result := 3 })

/-- 43_frame_codec.md R190, R193 to R195: a frame whose length fits is copied, then repaired with FEC, then validated over
the repaired body; an unrepairable word ends the parse before the checksum. -/
def Obligations.FrparseRepairsThenValidates : Prop :=
  ∀ (len : Nat) (s : State),
    let fec := !(s.fbuf.read 0).getLsbD 2
    let chk := !(s.fbuf.read 0).getLsbD 1
    let k := (s.fbuf.read 1).toNat
    let t2 := 2 * s.tbudget.toNat
    let n := k + if fec then t2 else 0
    let verdict (v : State) : BitVec 2 :=
      if chk = true ∧ crc8 (v.dbuf.bytes 0 n) ≠ s.fbuf.read (2 + n) then 1 else 0
    n ≤ 255 → len = 2 + n + (if chk then 1 else 0) → (fec = true → t2 ≠ 0) →
    ∃ (t : State) (body : Memory),
      (∀ i, i < n → body.read i = s.fbuf.read (2 + i)) ∧ (∀ i, n ≤ i → body.read i = s.dbuf.read i) ∧
      exec (.frparse len) s = .next t ∧
      let u : State := { s with dbuf := body, flen := BitVec.ofNat 9 len, rxflags := s.fbuf.read 0,
                                plen := s.fbuf.read 1 }
      (fec = false → t = { u with result := verdict u }) ∧
      (fec = true → ∃ v, exec (.rsdec k t2) u = .next v ∧
        t = if v.result = 2 then v else { v with result := verdict v })

/-- 43_frame_codec.md R191: `FRPARSE` does not read `CFG`, and the bits 0 and 3 to 7 of the flags byte change nothing but
`RXFLAGS`. -/
def Obligations.FrparseGoesByTheFrame : Prop :=
  (∀ (len : Nat) (s t : State) (cfg : BitVec 3), exec (.frparse len) s = .next t →
    exec (.frparse len) { s with cfg := cfg } = .next { t with cfg := cfg }) ∧
  ∀ (len : Nat) (s t : State) (flags : Byte),
    flags.getLsbD 1 = (s.fbuf.read 0).getLsbD 1 → flags.getLsbD 2 = (s.fbuf.read 0).getLsbD 2 →
    exec (.frparse len) s = .next t →
    exec (.frparse len) { s with fbuf := s.fbuf.write 0 flags } =
      .next { t with fbuf := s.fbuf.write 0 flags,
                     rxflags := if 2 ≤ len ∧ len ≤ 258 then flags else t.rxflags }

/-- 43_frame_codec.md R199 item 1: a frame built is parsed back to its payload, under every configuration, whatever stands in
`DBUF` in between. -/
def Obligations.FrameRoundTrip : Prop :=
  ∀ (k : Nat) (s t u : State) (between : Memory), k ≤ 255 →
    (s.cfg.getLsbD 2 = true → s.tbudget.toNat ≠ 0 ∧ k + 2 * s.tbudget.toNat ≤ 255) →
    exec (.frbuild k) s = .next t → exec (.frparse t.flen.toNat) { t with dbuf := between } = .next u →
    u.result = 0 ∧ u.plen.toNat = k ∧ u.rxflags = 0x1F#5 ++ ~~~s.cfg ∧
    ∀ i, i < k → u.dbuf.read i = s.dbuf.read i

/-- 43_frame_codec.md R199 item 2: with FEC on, a frame with at most `T_ERR` damaged bytes in its body is parsed to the
payload it was built from, with or without the checksum, whatever stands in the receiver's `DBUF`. -/
def Obligations.FecFrameIsRepaired : Prop :=
  ∀ (k : Nat) (s t u : State) (received between : Memory),
    s.cfg.getLsbD 2 = true → s.tbudget.toNat ≠ 0 → k + 2 * s.tbudget.toNat ≤ 255 → exec (.frbuild k) s = .next t →
    (∀ i, i < 2 ∨ 2 + (k + 2 * s.tbudget.toNat) ≤ i → received.read i = t.fbuf.read i) →
    ((List.range (k + 2 * s.tbudget.toNat)).filter fun i =>
      received.read (2 + i) ≠ t.fbuf.read (2 + i)).length ≤ s.tbudget.toNat →
    exec (.frparse t.flen.toNat) { t with fbuf := received, dbuf := between } = .next u →
    u.result = 0 ∧ u.plen.toNat = k ∧ ∀ i, i < k → u.dbuf.read i = s.dbuf.read i

/-- 43_frame_codec.md R199 item 3: with the checksum on and FEC off, a flipped bit of the payload or the checksum byte gives
`RESULT = 1`, of the length byte or of flag bits 1 and 2 gives 3, and of flag bits 0 and 3 to 7 is not detected and leaves
the payload. The frame is any that `FRBUILD` builds, and whatever stands in the receiver's `DBUF`; the checksum is that
of R181 (log entry 3). -/
def Obligations.SingleBitDamage : Prop :=
  ∀ (k i b : Nat) (s t u : State) (between : Memory), k ≤ 255 → s.cfg.getLsbD 1 = true → s.cfg.getLsbD 2 = false →
    s.tbudget.toNat ≠ 0 → exec (.frbuild k) s = .next t → i < k + 3 → b < 8 →
    exec (.frparse t.flen.toNat)
      { t with fbuf := t.fbuf.write i (t.fbuf.read i ^^^ (1#8 <<< b)), dbuf := between } = .next u →
    u.result = (if i = 0 then (if b = 1 ∨ b = 2 then 3 else 0) else if i = 1 then 3 else 1) ∧
    (u.result = 0 → ∀ j, j < k → u.dbuf.read j = s.dbuf.read j)

/-! ## Tone selector -/

/-- 44_tone_selector.md R210: `TONE` gives the byte modulo 8 as a data symbol and writes `RES` and `RESK` only. -/
def Obligations.ToneIsTheByteModEight : Prop :=
  ∀ (b : Byte) (s : State), exec (.tone b) s = .next { s with res := BitVec.ofNat 8 (b.toNat % 8), resk := 1 }

/-- 44_tone_selector.md R211, R212: the line sequence: `K_HAIL` hail symbols, one data symbol a frame byte, the end marker,
and `OperandRange` past it. -/
def Obligations.LineSequence : Prop :=
  ∀ (idx : Nat) (s : State),
    (idx < s.khail.toNat → exec (.lsym idx) s = .next { s with resk := 0, res := 0 }) ∧
    (s.khail.toNat ≤ idx → idx < s.khail.toNat + s.flen.toNat →
      exec (.lsym idx) s =
        .next { s with resk := 1, res := BitVec.ofNat 8 ((s.fbuf.read (idx - s.khail.toNat)).toNat % 8) }) ∧
    (idx = s.khail.toNat + s.flen.toNat → exec (.lsym idx) s = .next { s with resk := 2, res := 0 }) ∧
    (s.khail.toNat + s.flen.toNat < idx → exec (.lsym idx) s = .next { s with fault := 4 })

/-! ## The host's moves -/

/-- 10_state.md R22, 30_encoding.md R90: no command reads or changes which commands the host presents next. The port that
holds them is the model's choice, log entry 1. -/
def Obligations.CommandsIgnoreThePendingMoves : Prop :=
  ∀ (i : Instr) (s t : State) (moves : List HostEvent), exec i s = .next t →
    t.port = s.port ∧ exec i { s with port := moves } = .next { t with port := moves }
end

