-- ==== Sys2Proof/Laws/Galois.lean ====
section
/-! SUPPORT. What the tables of the field say: the logarithm and the exponential undo each other; product and inverse
by their cases. -/

namespace Sys2Proof.Machine

/-- Exponents count modulo 255 (40_gf256.md R109). -/
@[simp] theorem apow_mod (e : Nat) : apow (e % 255) = apow e := by simp [apow]

@[simp] theorem apow_add_mul_255 (e k : Nat) : apow (e + 255 * k) = apow e := by simp [apow]

@[simp] theorem gfLog_zero : gfLog 0#8 = none := rfl

/-- Every nonzero byte is a power of alpha, with its logarithm as exponent. -/
theorem gfLog_of_ne_zero {a : Byte} (h : a ≠ 0) : ∃ i, gfLog a = some i ∧ i < 255 ∧ apow i = a := by
  have all : ∀ n : Fin 256, n ≠ 0 →
      tableEntry logTable n.val < 255 ∧ apow (tableEntry logTable n.val) = BitVec.ofFin n := by decide +kernel
  have := all a.toFin fun e => h (congrArg BitVec.ofFin e)
  exact ⟨_, if_neg h, this⟩

/-- The logarithm exists exactly for the nonzero bytes (40_gf256.md R103). -/
theorem gfLog_eq_none_iff (a : Byte) : gfLog a = none ↔ a = 0#8 := by
  unfold gfLog; split <;> simp_all

/-- Powers of alpha multiply by adding exponents; a zero operand gives zero (40_gf256.md R105). -/
theorem gmul_of_log {a b : Byte} {i j : Nat} (ha : gfLog a = some i) (hb : gfLog b = some j) :
    gmul a b = apow (i + j) := by simp [gmul, ha, hb]

@[simp] theorem gmul_zero_left (b : Byte) : gmul 0#8 b = 0#8 := rfl

@[simp] theorem gmul_zero_right (a : Byte) : gmul a 0#8 = 0#8 := by
  unfold gmul; rw [gfLog_zero]; cases gfLog a <;> rfl

/-- The inverse exists exactly for the nonzero bytes (40_gf256.md R106, R107). -/
@[simp] theorem ginv_eq_none_iff (a : Byte) : ginv a = none ↔ a = 0#8 := by
  simp [ginv, gfLog_eq_none_iff]

theorem xorSum_succ (n : Nat) (f : Nat → Byte) : xorSum (n + 1) f = xorSum n f ^^^ f n := rfl

theorem xorSum_congr {n : Nat} {f g : Nat → Byte} (h : ∀ i, i < n → f i = g i) : xorSum n f = xorSum n g := by
  induction n with
  | zero => rfl
  | succ n ih => rw [xorSum_succ, xorSum_succ, ih fun i hi => h i (by omega), h n (by omega)]

end Sys2Proof.Machine
end

