-- ==== Sys2Proof/Laws/Codec.lean ====
section
/-! SUPPORT. The shapes of the codec's polynomials: lengths, leading and constant coefficients, bounds of locations. -/

namespace Sys2Proof.Machine

/-! ## Encoder -/

@[simp] theorem length_timesRoot (g : List Byte) (r : Byte) : (timesRoot g r).length = g.length + 1 := by
  simp [timesRoot]

@[simp] theorem length_generatorPolynomial (npar : Nat) : (generatorPolynomial npar).length = npar + 1 := by
  induction npar with
  | zero => rfl
  | succ n ih => simp [generatorPolynomial, ih]

theorem length_lfsrStep {gen par : List Byte} (h : par.length ≤ gen.length) (b : Byte) :
    (lfsrStep gen par b).length = par.length := by
  simp [lfsrStep]; omega

/-- The register keeps its `npar` entries. -/
theorem length_lfsr {gen : List Byte} {npar : Nat} (h : npar ≤ gen.length) (payload : List Byte) :
    (lfsr gen npar payload).length = npar := by
  have aux : ∀ (payload par : List Byte), par.length = npar →
      (payload.foldl (lfsrStep gen) par).length = npar := by
    intro payload
    induction payload with
    | nil => exact fun par h => h
    | cons b bs ih => exact fun par hp => ih _ (by rw [length_lfsrStep (by omega), hp])
  exact aux payload _ (by simp)

@[simp] theorem length_lfsr_generator (npar : Nat) (payload : List Byte) :
    (lfsr (generatorPolynomial npar) npar payload).length = npar := length_lfsr (by simp) payload

/-! ## Decoder -/

@[simp] theorem length_syndromes (cw : List Byte) (npar : Nat) : (syndromes cw npar).length = npar := by
  simp [syndromes]

@[simp] theorem length_errorEvaluator (lam syn : List Byte) (npar : Nat) :
    (errorEvaluator lam syn npar).length = npar := by simp [errorEvaluator]

@[simp] theorem length_polyAdd (p q : List Byte) : (polyAdd p q).length = max p.length q.length := by
  induction p generalizing q with
  | nil => simp [polyAdd]
  | cons a p ih => cases q with
    | nil => simp [polyAdd]
    | cons b q => simp [polyAdd, ih]

@[simp] theorem coeff_nil (j : Nat) : coeff [] j = 0 := rfl

/-- Coefficients add. -/
theorem coeff_polyAdd (p q : List Byte) (j : Nat) : coeff (polyAdd p q) j = coeff p j ^^^ coeff q j := by
  induction p generalizing q j with
  | nil => simp [polyAdd]
  | cons a p ih => cases q with
    | nil => simp [polyAdd]
    | cons b q => cases j with
      | zero => simp [polyAdd, coeff]
      | succ j => have := ih q j; simpa [polyAdd, coeff] using this

/-- Coefficients scale. -/
theorem coeff_polyScale (c : Byte) (p : List Byte) (j : Nat) : coeff (polyScale c p) j = gmul c (coeff p j) := by
  induction p generalizing j with
  | nil => simp [polyScale, coeff]
  | cons a p ih => cases j with
    | zero => simp [polyScale, coeff]
    | succ j => have := ih j; simpa [polyScale, coeff] using this

/-- What the solver's iterations keep: the degrees grow by at most one an iteration, the constant terms are those of
42_rs_decoder.md R147, and no index `m - i` of R145 is negative. -/
structure Solver.Bounded (v : Solver) (m : Nat) : Prop where
  psi : v.psi.length ≤ m + 1
  d : v.d.length ≤ m + 2
  len : v.len ≤ m
  kk : -1 ≤ v.kk
  constant : coeff v.psi 0 = 1
  shifted : coeff v.d 0 = 0

theorem solverStart_bounded : solverStart.Bounded 0 := by
  constructor <;> decide

theorem solverUpdate_bounded {v : Solver} {m : Nat} (h : v.Bounded m) (d : Byte) :
    (solverShift (solverUpdate m d v)).Bounded (m + 1) := by
  have hp := h.psi
  have hd := h.d
  have hl := h.len
  have hk := h.kk
  unfold solverUpdate solverShift
  split
  · constructor <;> simp [coeff] <;> first | omega | skip
    simpa [coeff] using h.constant
  · have hc : coeff (polyAdd v.psi (polyScale d v.d)) 0 = 1 := by
      rw [coeff_polyAdd, coeff_polyScale, h.constant, h.shifted]; simp
    dsimp only
    split
    · constructor <;> simp [polyScale, coeff] <;> first | omega | skip
      simpa [coeff, polyScale] using hc
    · constructor <;> simp [polyScale, coeff] <;> first | omega | skip
      simpa [coeff, polyScale] using hc

theorem solverAfter_bounded (syn : List Byte) (m : Nat) : (solverAfter syn m).Bounded m := by
  induction m with
  | zero => exact solverStart_bounded
  | succ m ih => exact solverUpdate_bounded ih _

/-- `psi` has degree at most `npar` (42_rs_decoder.md R147), so the 257 entries of the rule's arrays are enough. -/
theorem psi_length_le (syn : List Byte) (m : Nat) : (solverAfter syn m).psi.length ≤ m + 1 :=
  (solverAfter_bounded syn m).psi

theorem length_errorLocator_le (syn : List Byte) (npar : Nat) : (errorLocator syn npar).length ≤ npar + 1 :=
  psi_length_le syn npar

/-- `LAMBDA[0] = 0x01` always (42_rs_decoder.md R147). -/
theorem coeff_errorLocator_zero (syn : List Byte) (npar : Nat) : coeff (errorLocator syn npar) 0 = 1 :=
  (solverAfter_bounded syn npar).constant

theorem length_errorLocations_le (lam : List Byte) (npar : Nat) : (errorLocations lam npar).length ≤ 255 := by
  have := List.length_filter_le (fun r => locatorAt lam npar r == 0x00) ((List.range 255).map (· + 1))
  simpa [errorLocations] using this

/-- A location found is one of 0 to 254, and its element is a root (42_rs_decoder.md R149). -/
theorem mem_errorLocations (lam : List Byte) (npar i : Nat) :
    i ∈ errorLocations lam npar ↔ i < 255 ∧ locatorAt lam npar (255 - i) = 0 := by
  simp only [errorLocations, List.mem_map, List.mem_filter, List.mem_range, beq_iff_eq]
  constructor
  · rintro ⟨r, ⟨⟨j, hj, rfl⟩, h⟩, rfl⟩
    refine ⟨by omega, ?_⟩
    have : 255 - (255 - (j + 1)) = j + 1 := by omega
    rw [this]; exact h
  · rintro ⟨hi, h⟩
    exact ⟨255 - i, ⟨⟨254 - i, by omega, by omega⟩, h⟩, by omega⟩

/-- One magnitude for each location, when there is an answer. -/
theorem errorMagnitudes_length {lam om : List Byte} {npar : Nat} {is : List Nat} {es : List Byte}
    (h : errorMagnitudes lam om npar is = some es) : es.length = is.length := by
  induction is generalizing es with
  | nil => simp [errorMagnitudes] at h; simp [← h]
  | cons i is ih =>
    simp only [errorMagnitudes] at h
    split at h
    · simp at h; subst h; simp [ih ‹_›]
    · simp at h

/-- When the decode has corrections, every test of 42_rs_decoder.md R150 to R152 has passed. -/
theorem corrections_eq_some {lam om : List Byte} {npar n : Nat} {is : List Nat} {es : List Byte}
    (h : corrections lam om npar n is = some es) :
    is ≠ [] ∧ is.length ≤ npar ∧ (∀ i ∈ is, i < n) ∧ errorMagnitudes lam om npar is = some es := by
  unfold corrections at h
  split at h
  · simp at h
  · split at h
    · simp at h
    · split at h
      · simp at h
      · refine ⟨by rintro rfl; simp_all, by omega, fun i hi => ?_, h⟩
        rename_i hb
        simp at hb
        exact hb i hi

end Sys2Proof.Machine
end

