-- ==== Sys2Proof/Laws/Decode.lean ====
section
/-! SUPPORT. What the decoder can answer, and the fields of the encoder's words. -/

namespace Sys2Proof

@[simp] theorem Opcode.ofCode_code (o : Opcode) : Opcode.ofCode o.code = some o := by cases o <;> decide

/-- The lookup answers the row whose opcode the byte is. -/
theorem Opcode.code_of_ofCode {op : Byte} {o : Opcode} (h : Opcode.ofCode op = some o) : o.code = op := by
  have := List.find?_some h
  simpa using this

/-- The lookup fails exactly when no row has the opcode (30_encoding.md R84). -/
theorem Opcode.ofCode_eq_none_iff (op : Byte) : Opcode.ofCode op = none ↔ ∀ o : Opcode, o.code ≠ op := by
  simp only [Opcode.ofCode, List.find?_eq_none, beq_iff_eq]
  exact ⟨fun h o => h o (by cases o <;> simp [Opcode.all]), fun h o _ => h o⟩

/-- A decoded command comes from its row, with the row's must-be-zero fields zero. -/
theorem decode_eq_ok_iff (w : Word) (i : Instr) :
    decode w = .ok i ↔ ∃ o, Opcode.ofCode (fieldOp w) = some o ∧ o.zerosHold w = true ∧ o.command w = i := by
  unfold decode
  constructor
  · intro h
    split at h
    · simp at h
    · rename_i o ho
      split at h
      · rename_i hz
        simp only [Except.ok.injEq] at h
        exact ⟨o, ho, hz, h⟩
      · simp at h
  · rintro ⟨o, ho, hz, rfl⟩
    simp [ho, hz]

@[simp] theorem Opcode.opcode_command (o : Opcode) (w : Word) : (o.command w).opcode = o := by cases o <;> rfl

/-! ## The fields of a word put together from its parts -/

/-- A bit of a format R word is a bit of one of its four bytes. -/
theorem getLsbD_wordR (op f1 f2 f3 : Byte) (j : Nat) :
    (wordR op f1 f2 f3).getLsbD j =
      if j < 8 then f3.getLsbD j else if j < 16 then f2.getLsbD (j - 8)
      else if j < 24 then f1.getLsbD (j - 16) else op.getLsbD (j - 24) := by
  have : wordR op f1 f2 f3 = ((((op ++ f1 : BitVec (8 + 8)) ++ f2 : BitVec (8 + 8 + 8)) ++ f3 : BitVec (8 + 8 + 8 + 8))) := rfl
  rw [this, BitVec.getLsbD_append, BitVec.getLsbD_append, BitVec.getLsbD_append]
  simp only [Nat.sub_sub]
  repeat' split
  all_goals first | rfl | omega

/-- A bit of a format M word is a bit of its opcode, its 16-bit field or its byte. -/
theorem getLsbD_wordM (op : Byte) (h : BitVec 16) (f3 : Byte) (j : Nat) :
    (wordM op h f3).getLsbD j =
      if j < 8 then f3.getLsbD j else if j < 24 then h.getLsbD (j - 8) else op.getLsbD (j - 24) := by
  have : wordM op h f3 = ((op ++ h : BitVec (8 + 16)) ++ f3 : BitVec (8 + 16 + 8)) := rfl
  rw [this, BitVec.getLsbD_append, BitVec.getLsbD_append]
  simp only [Nat.sub_sub]
  repeat' split
  all_goals first | rfl | omega

@[simp] theorem fieldOp_wordR (op f1 f2 f3 : Byte) : fieldOp (wordR op f1 f2 f3) = op := by
  ext i hi
  rw [fieldOp, BitVec.getElem_extractLsb', getLsbD_wordR]
  repeat' (first | rw [if_pos (by omega)] | rw [if_neg (by omega)])
  simp [BitVec.getLsbD_eq_getElem hi]

@[simp] theorem fieldF1_wordR (op f1 f2 f3 : Byte) : fieldF1 (wordR op f1 f2 f3) = f1 := by
  ext i hi
  rw [fieldF1, BitVec.getElem_extractLsb', getLsbD_wordR]
  repeat' (first | rw [if_pos (by omega)] | rw [if_neg (by omega)])
  simp [BitVec.getLsbD_eq_getElem hi]

@[simp] theorem fieldF2_wordR (op f1 f2 f3 : Byte) : fieldF2 (wordR op f1 f2 f3) = f2 := by
  ext i hi
  rw [fieldF2, BitVec.getElem_extractLsb', getLsbD_wordR]
  repeat' (first | rw [if_pos (by omega)] | rw [if_neg (by omega)])
  simp [BitVec.getLsbD_eq_getElem hi]

@[simp] theorem fieldF3_wordR (op f1 f2 f3 : Byte) : fieldF3 (wordR op f1 f2 f3) = f3 := by
  ext i hi
  rw [fieldF3, BitVec.getElem_extractLsb', getLsbD_wordR, if_pos (by omega)]
  simp [BitVec.getLsbD_eq_getElem hi]

@[simp] theorem fieldOp_wordM (op : Byte) (h : BitVec 16) (f3 : Byte) : fieldOp (wordM op h f3) = op := by
  ext i hi
  rw [fieldOp, BitVec.getElem_extractLsb', getLsbD_wordM]
  repeat' (first | rw [if_pos (by omega)] | rw [if_neg (by omega)])
  simp [BitVec.getLsbD_eq_getElem hi]

@[simp] theorem fieldH_wordM (op : Byte) (h : BitVec 16) (f3 : Byte) : fieldH (wordM op h f3) = h := by
  ext i hi
  rw [fieldH, BitVec.getElem_extractLsb', getLsbD_wordM]
  repeat' (first | rw [if_pos (by omega)] | rw [if_neg (by omega)])
  simp [BitVec.getLsbD_eq_getElem hi]

@[simp] theorem fieldF3_wordM (op : Byte) (h : BitVec 16) (f3 : Byte) : fieldF3 (wordM op h f3) = f3 := by
  ext i hi
  rw [fieldF3, BitVec.getElem_extractLsb', getLsbD_wordM, if_pos (by omega)]
  simp [BitVec.getLsbD_eq_getElem hi]

/-- An operand that fits a byte field comes back from it. -/
theorem toNat_ofNat_byte {n : Nat} (h : fitsByteField n = true) : (BitVec.ofNat 8 n).toNat = n := by
  simp [fitsByteField] at h
  simp; omega

/-- An operand that fits the half field comes back from it. -/
theorem toNat_ofNat_half {n : Nat} (h : fitsHalfField n = true) : (BitVec.ofNat 16 n).toNat = n := by
  simp [fitsHalfField] at h
  simp; omega

end Sys2Proof
end

