-- ==== Sys2Proof/Laws/State.lean ====
section
/-! SUPPORT. One lemma for each field of the block and each named update: what the update leaves in the field. -/

namespace Sys2Proof.Machine.Block

variable (s : Block)

@[simp] theorem setRes_dbuf (v : Byte) : (s.setRes v).dbuf = s.dbuf := rfl
@[simp] theorem setRes_fbuf (v : Byte) : (s.setRes v).fbuf = s.fbuf := rfl
@[simp] theorem setRes_gen (v : Byte) : (s.setRes v).gen = s.gen := rfl
@[simp] theorem setRes_par (v : Byte) : (s.setRes v).par = s.par := rfl
@[simp] theorem setRes_syn (v : Byte) : (s.setRes v).syn = s.syn := rfl
@[simp] theorem setRes_lambda (v : Byte) : (s.setRes v).lambda = s.lambda := rfl
@[simp] theorem setRes_omega (v : Byte) : (s.setRes v).omega = s.omega := rfl
@[simp] theorem setRes_errloc (v : Byte) : (s.setRes v).errloc = s.errloc := rfl
@[simp] theorem setRes_res (v : Byte) : (s.setRes v).res = v := rfl
@[simp] theorem setRes_resk (v : Byte) : (s.setRes v).resk = s.resk := rfl
@[simp] theorem setRes_result (v : Byte) : (s.setRes v).result = s.result := rfl
@[simp] theorem setRes_synnz (v : Byte) : (s.setRes v).synnz = s.synnz := rfl
@[simp] theorem setRes_nerr (v : Byte) : (s.setRes v).nerr = s.nerr := rfl
@[simp] theorem setRes_flen (v : Byte) : (s.setRes v).flen = s.flen := rfl
@[simp] theorem setRes_plen (v : Byte) : (s.setRes v).plen = s.plen := rfl
@[simp] theorem setRes_rxflags (v : Byte) : (s.setRes v).rxflags = s.rxflags := rfl
@[simp] theorem setRes_cfg (v : Byte) : (s.setRes v).cfg = s.cfg := rfl
@[simp] theorem setRes_tbudget (v : Byte) : (s.setRes v).tbudget = s.tbudget := rfl
@[simp] theorem setRes_khail (v : Byte) : (s.setRes v).khail = s.khail := rfl
@[simp] theorem setRes_fault (v : Byte) : (s.setRes v).fault = s.fault := rfl

@[simp] theorem setLine_dbuf (kind : LineKind) (v : Byte) : (s.setLine kind v).dbuf = s.dbuf := rfl
@[simp] theorem setLine_fbuf (kind : LineKind) (v : Byte) : (s.setLine kind v).fbuf = s.fbuf := rfl
@[simp] theorem setLine_gen (kind : LineKind) (v : Byte) : (s.setLine kind v).gen = s.gen := rfl
@[simp] theorem setLine_par (kind : LineKind) (v : Byte) : (s.setLine kind v).par = s.par := rfl
@[simp] theorem setLine_syn (kind : LineKind) (v : Byte) : (s.setLine kind v).syn = s.syn := rfl
@[simp] theorem setLine_lambda (kind : LineKind) (v : Byte) : (s.setLine kind v).lambda = s.lambda := rfl
@[simp] theorem setLine_omega (kind : LineKind) (v : Byte) : (s.setLine kind v).omega = s.omega := rfl
@[simp] theorem setLine_errloc (kind : LineKind) (v : Byte) : (s.setLine kind v).errloc = s.errloc := rfl
@[simp] theorem setLine_res (kind : LineKind) (v : Byte) : (s.setLine kind v).res = v := rfl
@[simp] theorem setLine_resk (kind : LineKind) (v : Byte) : (s.setLine kind v).resk = kind.bits := rfl
@[simp] theorem setLine_result (kind : LineKind) (v : Byte) : (s.setLine kind v).result = s.result := rfl
@[simp] theorem setLine_synnz (kind : LineKind) (v : Byte) : (s.setLine kind v).synnz = s.synnz := rfl
@[simp] theorem setLine_nerr (kind : LineKind) (v : Byte) : (s.setLine kind v).nerr = s.nerr := rfl
@[simp] theorem setLine_flen (kind : LineKind) (v : Byte) : (s.setLine kind v).flen = s.flen := rfl
@[simp] theorem setLine_plen (kind : LineKind) (v : Byte) : (s.setLine kind v).plen = s.plen := rfl
@[simp] theorem setLine_rxflags (kind : LineKind) (v : Byte) : (s.setLine kind v).rxflags = s.rxflags := rfl
@[simp] theorem setLine_cfg (kind : LineKind) (v : Byte) : (s.setLine kind v).cfg = s.cfg := rfl
@[simp] theorem setLine_tbudget (kind : LineKind) (v : Byte) : (s.setLine kind v).tbudget = s.tbudget := rfl
@[simp] theorem setLine_khail (kind : LineKind) (v : Byte) : (s.setLine kind v).khail = s.khail := rfl
@[simp] theorem setLine_fault (kind : LineKind) (v : Byte) : (s.setLine kind v).fault = s.fault := rfl

@[simp] theorem setResult_dbuf (c : ResultCode) : (s.setResult c).dbuf = s.dbuf := rfl
@[simp] theorem setResult_fbuf (c : ResultCode) : (s.setResult c).fbuf = s.fbuf := rfl
@[simp] theorem setResult_gen (c : ResultCode) : (s.setResult c).gen = s.gen := rfl
@[simp] theorem setResult_par (c : ResultCode) : (s.setResult c).par = s.par := rfl
@[simp] theorem setResult_syn (c : ResultCode) : (s.setResult c).syn = s.syn := rfl
@[simp] theorem setResult_lambda (c : ResultCode) : (s.setResult c).lambda = s.lambda := rfl
@[simp] theorem setResult_omega (c : ResultCode) : (s.setResult c).omega = s.omega := rfl
@[simp] theorem setResult_errloc (c : ResultCode) : (s.setResult c).errloc = s.errloc := rfl
@[simp] theorem setResult_res (c : ResultCode) : (s.setResult c).res = s.res := rfl
@[simp] theorem setResult_resk (c : ResultCode) : (s.setResult c).resk = s.resk := rfl
@[simp] theorem setResult_result (c : ResultCode) : (s.setResult c).result = c.bits := rfl
@[simp] theorem setResult_synnz (c : ResultCode) : (s.setResult c).synnz = s.synnz := rfl
@[simp] theorem setResult_nerr (c : ResultCode) : (s.setResult c).nerr = s.nerr := rfl
@[simp] theorem setResult_flen (c : ResultCode) : (s.setResult c).flen = s.flen := rfl
@[simp] theorem setResult_plen (c : ResultCode) : (s.setResult c).plen = s.plen := rfl
@[simp] theorem setResult_rxflags (c : ResultCode) : (s.setResult c).rxflags = s.rxflags := rfl
@[simp] theorem setResult_cfg (c : ResultCode) : (s.setResult c).cfg = s.cfg := rfl
@[simp] theorem setResult_tbudget (c : ResultCode) : (s.setResult c).tbudget = s.tbudget := rfl
@[simp] theorem setResult_khail (c : ResultCode) : (s.setResult c).khail = s.khail := rfl
@[simp] theorem setResult_fault (c : ResultCode) : (s.setResult c).fault = s.fault := rfl

@[simp] theorem setCfg_dbuf (v : BitVec 3) : (s.setCfg v).dbuf = s.dbuf := rfl
@[simp] theorem setCfg_fbuf (v : BitVec 3) : (s.setCfg v).fbuf = s.fbuf := rfl
@[simp] theorem setCfg_gen (v : BitVec 3) : (s.setCfg v).gen = s.gen := rfl
@[simp] theorem setCfg_par (v : BitVec 3) : (s.setCfg v).par = s.par := rfl
@[simp] theorem setCfg_syn (v : BitVec 3) : (s.setCfg v).syn = s.syn := rfl
@[simp] theorem setCfg_lambda (v : BitVec 3) : (s.setCfg v).lambda = s.lambda := rfl
@[simp] theorem setCfg_omega (v : BitVec 3) : (s.setCfg v).omega = s.omega := rfl
@[simp] theorem setCfg_errloc (v : BitVec 3) : (s.setCfg v).errloc = s.errloc := rfl
@[simp] theorem setCfg_res (v : BitVec 3) : (s.setCfg v).res = s.res := rfl
@[simp] theorem setCfg_resk (v : BitVec 3) : (s.setCfg v).resk = s.resk := rfl
@[simp] theorem setCfg_result (v : BitVec 3) : (s.setCfg v).result = s.result := rfl
@[simp] theorem setCfg_synnz (v : BitVec 3) : (s.setCfg v).synnz = s.synnz := rfl
@[simp] theorem setCfg_nerr (v : BitVec 3) : (s.setCfg v).nerr = s.nerr := rfl
@[simp] theorem setCfg_flen (v : BitVec 3) : (s.setCfg v).flen = s.flen := rfl
@[simp] theorem setCfg_plen (v : BitVec 3) : (s.setCfg v).plen = s.plen := rfl
@[simp] theorem setCfg_rxflags (v : BitVec 3) : (s.setCfg v).rxflags = s.rxflags := rfl
@[simp] theorem setCfg_cfg (v : BitVec 3) : (s.setCfg v).cfg = v := rfl
@[simp] theorem setCfg_tbudget (v : BitVec 3) : (s.setCfg v).tbudget = s.tbudget := rfl
@[simp] theorem setCfg_khail (v : BitVec 3) : (s.setCfg v).khail = s.khail := rfl
@[simp] theorem setCfg_fault (v : BitVec 3) : (s.setCfg v).fault = s.fault := rfl

@[simp] theorem setFlen_dbuf (n : Nat) : (s.setFlen n).dbuf = s.dbuf := rfl
@[simp] theorem setFlen_fbuf (n : Nat) : (s.setFlen n).fbuf = s.fbuf := rfl
@[simp] theorem setFlen_gen (n : Nat) : (s.setFlen n).gen = s.gen := rfl
@[simp] theorem setFlen_par (n : Nat) : (s.setFlen n).par = s.par := rfl
@[simp] theorem setFlen_syn (n : Nat) : (s.setFlen n).syn = s.syn := rfl
@[simp] theorem setFlen_lambda (n : Nat) : (s.setFlen n).lambda = s.lambda := rfl
@[simp] theorem setFlen_omega (n : Nat) : (s.setFlen n).omega = s.omega := rfl
@[simp] theorem setFlen_errloc (n : Nat) : (s.setFlen n).errloc = s.errloc := rfl
@[simp] theorem setFlen_res (n : Nat) : (s.setFlen n).res = s.res := rfl
@[simp] theorem setFlen_resk (n : Nat) : (s.setFlen n).resk = s.resk := rfl
@[simp] theorem setFlen_result (n : Nat) : (s.setFlen n).result = s.result := rfl
@[simp] theorem setFlen_synnz (n : Nat) : (s.setFlen n).synnz = s.synnz := rfl
@[simp] theorem setFlen_nerr (n : Nat) : (s.setFlen n).nerr = s.nerr := rfl
@[simp] theorem setFlen_flen (n : Nat) : (s.setFlen n).flen = BitVec.ofNat 9 n := rfl
@[simp] theorem setFlen_plen (n : Nat) : (s.setFlen n).plen = s.plen := rfl
@[simp] theorem setFlen_rxflags (n : Nat) : (s.setFlen n).rxflags = s.rxflags := rfl
@[simp] theorem setFlen_cfg (n : Nat) : (s.setFlen n).cfg = s.cfg := rfl
@[simp] theorem setFlen_tbudget (n : Nat) : (s.setFlen n).tbudget = s.tbudget := rfl
@[simp] theorem setFlen_khail (n : Nat) : (s.setFlen n).khail = s.khail := rfl
@[simp] theorem setFlen_fault (n : Nat) : (s.setFlen n).fault = s.fault := rfl

@[simp] theorem setPlen_dbuf (k : Byte) : (s.setPlen k).dbuf = s.dbuf := rfl
@[simp] theorem setPlen_fbuf (k : Byte) : (s.setPlen k).fbuf = s.fbuf := rfl
@[simp] theorem setPlen_gen (k : Byte) : (s.setPlen k).gen = s.gen := rfl
@[simp] theorem setPlen_par (k : Byte) : (s.setPlen k).par = s.par := rfl
@[simp] theorem setPlen_syn (k : Byte) : (s.setPlen k).syn = s.syn := rfl
@[simp] theorem setPlen_lambda (k : Byte) : (s.setPlen k).lambda = s.lambda := rfl
@[simp] theorem setPlen_omega (k : Byte) : (s.setPlen k).omega = s.omega := rfl
@[simp] theorem setPlen_errloc (k : Byte) : (s.setPlen k).errloc = s.errloc := rfl
@[simp] theorem setPlen_res (k : Byte) : (s.setPlen k).res = s.res := rfl
@[simp] theorem setPlen_resk (k : Byte) : (s.setPlen k).resk = s.resk := rfl
@[simp] theorem setPlen_result (k : Byte) : (s.setPlen k).result = s.result := rfl
@[simp] theorem setPlen_synnz (k : Byte) : (s.setPlen k).synnz = s.synnz := rfl
@[simp] theorem setPlen_nerr (k : Byte) : (s.setPlen k).nerr = s.nerr := rfl
@[simp] theorem setPlen_flen (k : Byte) : (s.setPlen k).flen = s.flen := rfl
@[simp] theorem setPlen_plen (k : Byte) : (s.setPlen k).plen = k := rfl
@[simp] theorem setPlen_rxflags (k : Byte) : (s.setPlen k).rxflags = s.rxflags := rfl
@[simp] theorem setPlen_cfg (k : Byte) : (s.setPlen k).cfg = s.cfg := rfl
@[simp] theorem setPlen_tbudget (k : Byte) : (s.setPlen k).tbudget = s.tbudget := rfl
@[simp] theorem setPlen_khail (k : Byte) : (s.setPlen k).khail = s.khail := rfl
@[simp] theorem setPlen_fault (k : Byte) : (s.setPlen k).fault = s.fault := rfl

@[simp] theorem setRxflags_dbuf (v : Byte) : (s.setRxflags v).dbuf = s.dbuf := rfl
@[simp] theorem setRxflags_fbuf (v : Byte) : (s.setRxflags v).fbuf = s.fbuf := rfl
@[simp] theorem setRxflags_gen (v : Byte) : (s.setRxflags v).gen = s.gen := rfl
@[simp] theorem setRxflags_par (v : Byte) : (s.setRxflags v).par = s.par := rfl
@[simp] theorem setRxflags_syn (v : Byte) : (s.setRxflags v).syn = s.syn := rfl
@[simp] theorem setRxflags_lambda (v : Byte) : (s.setRxflags v).lambda = s.lambda := rfl
@[simp] theorem setRxflags_omega (v : Byte) : (s.setRxflags v).omega = s.omega := rfl
@[simp] theorem setRxflags_errloc (v : Byte) : (s.setRxflags v).errloc = s.errloc := rfl
@[simp] theorem setRxflags_res (v : Byte) : (s.setRxflags v).res = s.res := rfl
@[simp] theorem setRxflags_resk (v : Byte) : (s.setRxflags v).resk = s.resk := rfl
@[simp] theorem setRxflags_result (v : Byte) : (s.setRxflags v).result = s.result := rfl
@[simp] theorem setRxflags_synnz (v : Byte) : (s.setRxflags v).synnz = s.synnz := rfl
@[simp] theorem setRxflags_nerr (v : Byte) : (s.setRxflags v).nerr = s.nerr := rfl
@[simp] theorem setRxflags_flen (v : Byte) : (s.setRxflags v).flen = s.flen := rfl
@[simp] theorem setRxflags_plen (v : Byte) : (s.setRxflags v).plen = s.plen := rfl
@[simp] theorem setRxflags_rxflags (v : Byte) : (s.setRxflags v).rxflags = v := rfl
@[simp] theorem setRxflags_cfg (v : Byte) : (s.setRxflags v).cfg = s.cfg := rfl
@[simp] theorem setRxflags_tbudget (v : Byte) : (s.setRxflags v).tbudget = s.tbudget := rfl
@[simp] theorem setRxflags_khail (v : Byte) : (s.setRxflags v).khail = s.khail := rfl
@[simp] theorem setRxflags_fault (v : Byte) : (s.setRxflags v).fault = s.fault := rfl

@[simp] theorem writeDbuf_dbuf (base : Nat) (bs : List Byte) : (s.writeDbuf base bs).dbuf = s.dbuf.writeBytes base bs := rfl
@[simp] theorem writeDbuf_fbuf (base : Nat) (bs : List Byte) : (s.writeDbuf base bs).fbuf = s.fbuf := rfl
@[simp] theorem writeDbuf_gen (base : Nat) (bs : List Byte) : (s.writeDbuf base bs).gen = s.gen := rfl
@[simp] theorem writeDbuf_par (base : Nat) (bs : List Byte) : (s.writeDbuf base bs).par = s.par := rfl
@[simp] theorem writeDbuf_syn (base : Nat) (bs : List Byte) : (s.writeDbuf base bs).syn = s.syn := rfl
@[simp] theorem writeDbuf_lambda (base : Nat) (bs : List Byte) : (s.writeDbuf base bs).lambda = s.lambda := rfl
@[simp] theorem writeDbuf_omega (base : Nat) (bs : List Byte) : (s.writeDbuf base bs).omega = s.omega := rfl
@[simp] theorem writeDbuf_errloc (base : Nat) (bs : List Byte) : (s.writeDbuf base bs).errloc = s.errloc := rfl
@[simp] theorem writeDbuf_res (base : Nat) (bs : List Byte) : (s.writeDbuf base bs).res = s.res := rfl
@[simp] theorem writeDbuf_resk (base : Nat) (bs : List Byte) : (s.writeDbuf base bs).resk = s.resk := rfl
@[simp] theorem writeDbuf_result (base : Nat) (bs : List Byte) : (s.writeDbuf base bs).result = s.result := rfl
@[simp] theorem writeDbuf_synnz (base : Nat) (bs : List Byte) : (s.writeDbuf base bs).synnz = s.synnz := rfl
@[simp] theorem writeDbuf_nerr (base : Nat) (bs : List Byte) : (s.writeDbuf base bs).nerr = s.nerr := rfl
@[simp] theorem writeDbuf_flen (base : Nat) (bs : List Byte) : (s.writeDbuf base bs).flen = s.flen := rfl
@[simp] theorem writeDbuf_plen (base : Nat) (bs : List Byte) : (s.writeDbuf base bs).plen = s.plen := rfl
@[simp] theorem writeDbuf_rxflags (base : Nat) (bs : List Byte) : (s.writeDbuf base bs).rxflags = s.rxflags := rfl
@[simp] theorem writeDbuf_cfg (base : Nat) (bs : List Byte) : (s.writeDbuf base bs).cfg = s.cfg := rfl
@[simp] theorem writeDbuf_tbudget (base : Nat) (bs : List Byte) : (s.writeDbuf base bs).tbudget = s.tbudget := rfl
@[simp] theorem writeDbuf_khail (base : Nat) (bs : List Byte) : (s.writeDbuf base bs).khail = s.khail := rfl
@[simp] theorem writeDbuf_fault (base : Nat) (bs : List Byte) : (s.writeDbuf base bs).fault = s.fault := rfl

@[simp] theorem writeFbuf_dbuf (base : Nat) (bs : List Byte) : (s.writeFbuf base bs).dbuf = s.dbuf := rfl
@[simp] theorem writeFbuf_fbuf (base : Nat) (bs : List Byte) : (s.writeFbuf base bs).fbuf = s.fbuf.writeBytes base bs := rfl
@[simp] theorem writeFbuf_gen (base : Nat) (bs : List Byte) : (s.writeFbuf base bs).gen = s.gen := rfl
@[simp] theorem writeFbuf_par (base : Nat) (bs : List Byte) : (s.writeFbuf base bs).par = s.par := rfl
@[simp] theorem writeFbuf_syn (base : Nat) (bs : List Byte) : (s.writeFbuf base bs).syn = s.syn := rfl
@[simp] theorem writeFbuf_lambda (base : Nat) (bs : List Byte) : (s.writeFbuf base bs).lambda = s.lambda := rfl
@[simp] theorem writeFbuf_omega (base : Nat) (bs : List Byte) : (s.writeFbuf base bs).omega = s.omega := rfl
@[simp] theorem writeFbuf_errloc (base : Nat) (bs : List Byte) : (s.writeFbuf base bs).errloc = s.errloc := rfl
@[simp] theorem writeFbuf_res (base : Nat) (bs : List Byte) : (s.writeFbuf base bs).res = s.res := rfl
@[simp] theorem writeFbuf_resk (base : Nat) (bs : List Byte) : (s.writeFbuf base bs).resk = s.resk := rfl
@[simp] theorem writeFbuf_result (base : Nat) (bs : List Byte) : (s.writeFbuf base bs).result = s.result := rfl
@[simp] theorem writeFbuf_synnz (base : Nat) (bs : List Byte) : (s.writeFbuf base bs).synnz = s.synnz := rfl
@[simp] theorem writeFbuf_nerr (base : Nat) (bs : List Byte) : (s.writeFbuf base bs).nerr = s.nerr := rfl
@[simp] theorem writeFbuf_flen (base : Nat) (bs : List Byte) : (s.writeFbuf base bs).flen = s.flen := rfl
@[simp] theorem writeFbuf_plen (base : Nat) (bs : List Byte) : (s.writeFbuf base bs).plen = s.plen := rfl
@[simp] theorem writeFbuf_rxflags (base : Nat) (bs : List Byte) : (s.writeFbuf base bs).rxflags = s.rxflags := rfl
@[simp] theorem writeFbuf_cfg (base : Nat) (bs : List Byte) : (s.writeFbuf base bs).cfg = s.cfg := rfl
@[simp] theorem writeFbuf_tbudget (base : Nat) (bs : List Byte) : (s.writeFbuf base bs).tbudget = s.tbudget := rfl
@[simp] theorem writeFbuf_khail (base : Nat) (bs : List Byte) : (s.writeFbuf base bs).khail = s.khail := rfl
@[simp] theorem writeFbuf_fault (base : Nat) (bs : List Byte) : (s.writeFbuf base bs).fault = s.fault := rfl

@[simp] theorem setEncoder_dbuf (g p : List Byte) : (s.setEncoder g p).dbuf = s.dbuf := rfl
@[simp] theorem setEncoder_fbuf (g p : List Byte) : (s.setEncoder g p).fbuf = s.fbuf := rfl
@[simp] theorem setEncoder_gen (g p : List Byte) : (s.setEncoder g p).gen = Memory.ofBytes g := rfl
@[simp] theorem setEncoder_par (g p : List Byte) : (s.setEncoder g p).par = Memory.ofBytes p := rfl
@[simp] theorem setEncoder_syn (g p : List Byte) : (s.setEncoder g p).syn = s.syn := rfl
@[simp] theorem setEncoder_lambda (g p : List Byte) : (s.setEncoder g p).lambda = s.lambda := rfl
@[simp] theorem setEncoder_omega (g p : List Byte) : (s.setEncoder g p).omega = s.omega := rfl
@[simp] theorem setEncoder_errloc (g p : List Byte) : (s.setEncoder g p).errloc = s.errloc := rfl
@[simp] theorem setEncoder_res (g p : List Byte) : (s.setEncoder g p).res = s.res := rfl
@[simp] theorem setEncoder_resk (g p : List Byte) : (s.setEncoder g p).resk = s.resk := rfl
@[simp] theorem setEncoder_result (g p : List Byte) : (s.setEncoder g p).result = s.result := rfl
@[simp] theorem setEncoder_synnz (g p : List Byte) : (s.setEncoder g p).synnz = s.synnz := rfl
@[simp] theorem setEncoder_nerr (g p : List Byte) : (s.setEncoder g p).nerr = s.nerr := rfl
@[simp] theorem setEncoder_flen (g p : List Byte) : (s.setEncoder g p).flen = s.flen := rfl
@[simp] theorem setEncoder_plen (g p : List Byte) : (s.setEncoder g p).plen = s.plen := rfl
@[simp] theorem setEncoder_rxflags (g p : List Byte) : (s.setEncoder g p).rxflags = s.rxflags := rfl
@[simp] theorem setEncoder_cfg (g p : List Byte) : (s.setEncoder g p).cfg = s.cfg := rfl
@[simp] theorem setEncoder_tbudget (g p : List Byte) : (s.setEncoder g p).tbudget = s.tbudget := rfl
@[simp] theorem setEncoder_khail (g p : List Byte) : (s.setEncoder g p).khail = s.khail := rfl
@[simp] theorem setEncoder_fault (g p : List Byte) : (s.setEncoder g p).fault = s.fault := rfl

@[simp] theorem setSyndromes_dbuf (syn : List Byte) : (s.setSyndromes syn).dbuf = s.dbuf := rfl
@[simp] theorem setSyndromes_fbuf (syn : List Byte) : (s.setSyndromes syn).fbuf = s.fbuf := rfl
@[simp] theorem setSyndromes_gen (syn : List Byte) : (s.setSyndromes syn).gen = s.gen := rfl
@[simp] theorem setSyndromes_par (syn : List Byte) : (s.setSyndromes syn).par = s.par := rfl
@[simp] theorem setSyndromes_syn (syn : List Byte) : (s.setSyndromes syn).syn = Memory.ofBytes syn := rfl
@[simp] theorem setSyndromes_lambda (syn : List Byte) : (s.setSyndromes syn).lambda = s.lambda := rfl
@[simp] theorem setSyndromes_omega (syn : List Byte) : (s.setSyndromes syn).omega = s.omega := rfl
@[simp] theorem setSyndromes_errloc (syn : List Byte) : (s.setSyndromes syn).errloc = s.errloc := rfl
@[simp] theorem setSyndromes_res (syn : List Byte) : (s.setSyndromes syn).res = s.res := rfl
@[simp] theorem setSyndromes_resk (syn : List Byte) : (s.setSyndromes syn).resk = s.resk := rfl
@[simp] theorem setSyndromes_result (syn : List Byte) : (s.setSyndromes syn).result = s.result := rfl
@[simp] theorem setSyndromes_synnz (syn : List Byte) : (s.setSyndromes syn).synnz = if syn.all (· == 0) then 0 else 1 := rfl
@[simp] theorem setSyndromes_nerr (syn : List Byte) : (s.setSyndromes syn).nerr = s.nerr := rfl
@[simp] theorem setSyndromes_flen (syn : List Byte) : (s.setSyndromes syn).flen = s.flen := rfl
@[simp] theorem setSyndromes_plen (syn : List Byte) : (s.setSyndromes syn).plen = s.plen := rfl
@[simp] theorem setSyndromes_rxflags (syn : List Byte) : (s.setSyndromes syn).rxflags = s.rxflags := rfl
@[simp] theorem setSyndromes_cfg (syn : List Byte) : (s.setSyndromes syn).cfg = s.cfg := rfl
@[simp] theorem setSyndromes_tbudget (syn : List Byte) : (s.setSyndromes syn).tbudget = s.tbudget := rfl
@[simp] theorem setSyndromes_khail (syn : List Byte) : (s.setSyndromes syn).khail = s.khail := rfl
@[simp] theorem setSyndromes_fault (syn : List Byte) : (s.setSyndromes syn).fault = s.fault := rfl

@[simp] theorem setSolver_dbuf (lam om : List Byte) (locs : List Nat) : (s.setSolver lam om locs).dbuf = s.dbuf := rfl
@[simp] theorem setSolver_fbuf (lam om : List Byte) (locs : List Nat) : (s.setSolver lam om locs).fbuf = s.fbuf := rfl
@[simp] theorem setSolver_gen (lam om : List Byte) (locs : List Nat) : (s.setSolver lam om locs).gen = s.gen := rfl
@[simp] theorem setSolver_par (lam om : List Byte) (locs : List Nat) : (s.setSolver lam om locs).par = s.par := rfl
@[simp] theorem setSolver_syn (lam om : List Byte) (locs : List Nat) : (s.setSolver lam om locs).syn = s.syn := rfl
@[simp] theorem setSolver_lambda (lam om : List Byte) (locs : List Nat) : (s.setSolver lam om locs).lambda = Memory.ofBytes lam := rfl
@[simp] theorem setSolver_omega (lam om : List Byte) (locs : List Nat) : (s.setSolver lam om locs).omega = Memory.ofBytes om := rfl
@[simp] theorem setSolver_errloc (lam om : List Byte) (locs : List Nat) : (s.setSolver lam om locs).errloc = Memory.ofBytes (locs.map (BitVec.ofNat 8)) := rfl
@[simp] theorem setSolver_res (lam om : List Byte) (locs : List Nat) : (s.setSolver lam om locs).res = s.res := rfl
@[simp] theorem setSolver_resk (lam om : List Byte) (locs : List Nat) : (s.setSolver lam om locs).resk = s.resk := rfl
@[simp] theorem setSolver_result (lam om : List Byte) (locs : List Nat) : (s.setSolver lam om locs).result = s.result := rfl
@[simp] theorem setSolver_synnz (lam om : List Byte) (locs : List Nat) : (s.setSolver lam om locs).synnz = s.synnz := rfl
@[simp] theorem setSolver_nerr (lam om : List Byte) (locs : List Nat) : (s.setSolver lam om locs).nerr = BitVec.ofNat 8 locs.length := rfl
@[simp] theorem setSolver_flen (lam om : List Byte) (locs : List Nat) : (s.setSolver lam om locs).flen = s.flen := rfl
@[simp] theorem setSolver_plen (lam om : List Byte) (locs : List Nat) : (s.setSolver lam om locs).plen = s.plen := rfl
@[simp] theorem setSolver_rxflags (lam om : List Byte) (locs : List Nat) : (s.setSolver lam om locs).rxflags = s.rxflags := rfl
@[simp] theorem setSolver_cfg (lam om : List Byte) (locs : List Nat) : (s.setSolver lam om locs).cfg = s.cfg := rfl
@[simp] theorem setSolver_tbudget (lam om : List Byte) (locs : List Nat) : (s.setSolver lam om locs).tbudget = s.tbudget := rfl
@[simp] theorem setSolver_khail (lam om : List Byte) (locs : List Nat) : (s.setSolver lam om locs).khail = s.khail := rfl
@[simp] theorem setSolver_fault (lam om : List Byte) (locs : List Nat) : (s.setSolver lam om locs).fault = s.fault := rfl

@[simp] theorem raise_dbuf (f : FaultCode) : (s.raise f).dbuf = s.dbuf := rfl
@[simp] theorem raise_fbuf (f : FaultCode) : (s.raise f).fbuf = s.fbuf := rfl
@[simp] theorem raise_gen (f : FaultCode) : (s.raise f).gen = s.gen := rfl
@[simp] theorem raise_par (f : FaultCode) : (s.raise f).par = s.par := rfl
@[simp] theorem raise_syn (f : FaultCode) : (s.raise f).syn = s.syn := rfl
@[simp] theorem raise_lambda (f : FaultCode) : (s.raise f).lambda = s.lambda := rfl
@[simp] theorem raise_omega (f : FaultCode) : (s.raise f).omega = s.omega := rfl
@[simp] theorem raise_errloc (f : FaultCode) : (s.raise f).errloc = s.errloc := rfl
@[simp] theorem raise_res (f : FaultCode) : (s.raise f).res = s.res := rfl
@[simp] theorem raise_resk (f : FaultCode) : (s.raise f).resk = s.resk := rfl
@[simp] theorem raise_result (f : FaultCode) : (s.raise f).result = s.result := rfl
@[simp] theorem raise_synnz (f : FaultCode) : (s.raise f).synnz = s.synnz := rfl
@[simp] theorem raise_nerr (f : FaultCode) : (s.raise f).nerr = s.nerr := rfl
@[simp] theorem raise_flen (f : FaultCode) : (s.raise f).flen = s.flen := rfl
@[simp] theorem raise_plen (f : FaultCode) : (s.raise f).plen = s.plen := rfl
@[simp] theorem raise_rxflags (f : FaultCode) : (s.raise f).rxflags = s.rxflags := rfl
@[simp] theorem raise_cfg (f : FaultCode) : (s.raise f).cfg = s.cfg := rfl
@[simp] theorem raise_tbudget (f : FaultCode) : (s.raise f).tbudget = s.tbudget := rfl
@[simp] theorem raise_khail (f : FaultCode) : (s.raise f).khail = s.khail := rfl
@[simp] theorem raise_fault (f : FaultCode) : (s.raise f).fault = f.bits := rfl

@[simp] theorem applyReset_dbuf : s.applyReset.dbuf = Block.reset.dbuf := rfl
@[simp] theorem applyReset_fbuf : s.applyReset.fbuf = Block.reset.fbuf := rfl
@[simp] theorem applyReset_gen : s.applyReset.gen = Block.reset.gen := rfl
@[simp] theorem applyReset_par : s.applyReset.par = Block.reset.par := rfl
@[simp] theorem applyReset_syn : s.applyReset.syn = Block.reset.syn := rfl
@[simp] theorem applyReset_lambda : s.applyReset.lambda = Block.reset.lambda := rfl
@[simp] theorem applyReset_omega : s.applyReset.omega = Block.reset.omega := rfl
@[simp] theorem applyReset_errloc : s.applyReset.errloc = Block.reset.errloc := rfl
@[simp] theorem applyReset_res : s.applyReset.res = Block.reset.res := rfl
@[simp] theorem applyReset_resk : s.applyReset.resk = Block.reset.resk := rfl
@[simp] theorem applyReset_result : s.applyReset.result = Block.reset.result := rfl
@[simp] theorem applyReset_synnz : s.applyReset.synnz = Block.reset.synnz := rfl
@[simp] theorem applyReset_nerr : s.applyReset.nerr = Block.reset.nerr := rfl
@[simp] theorem applyReset_flen : s.applyReset.flen = Block.reset.flen := rfl
@[simp] theorem applyReset_plen : s.applyReset.plen = Block.reset.plen := rfl
@[simp] theorem applyReset_rxflags : s.applyReset.rxflags = Block.reset.rxflags := rfl
@[simp] theorem applyReset_cfg : s.applyReset.cfg = Block.reset.cfg := rfl
@[simp] theorem applyReset_tbudget : s.applyReset.tbudget = s.tbudget := rfl
@[simp] theorem applyReset_khail : s.applyReset.khail = s.khail := rfl
@[simp] theorem applyReset_fault : s.applyReset.fault = Block.reset.fault := rfl

end Sys2Proof.Machine.Block

namespace Sys2Proof.Machine.State

variable (s : State)

@[simp] theorem onBlock_toBlock (f : Block → Block) : (s.onBlock f).toBlock = f s.toBlock := rfl
@[simp] theorem onBlock_port (f : Block → Block) : (s.onBlock f).port = s.port := rfl
@[simp] theorem setPort_toBlock (es : List HostEvent) : (s.setPort es).toBlock = s.toBlock := rfl
@[simp] theorem setPort_port (es : List HostEvent) : (s.setPort es).port = es := rfl
@[simp] theorem alone_toBlock (b : Block) : b.alone.toBlock = b := rfl
@[simp] theorem alone_port (b : Block) : b.alone.port = [] := rfl
/-- An effect on the block does not depend on the host's pending moves. -/
theorem onBlock_setPort (f : Block → Block) (es : List HostEvent) : (s.setPort es).onBlock f = (s.onBlock f).setPort es := rfl

end Sys2Proof.Machine.State
end

