-- ==== Sys2Proof/Laws/Frame.lean ====
section
/-! SUPPORT. The frame of each shared operation: the fields it leaves as they are, one lemma for each. -/

namespace Sys2Proof.Machine.Block

variable (s : Block)

@[simp] theorem encodePayload_fbuf (k npar : Nat) : (s.encodePayload k npar).fbuf = s.fbuf := rfl
@[simp] theorem encodePayload_syn (k npar : Nat) : (s.encodePayload k npar).syn = s.syn := rfl
@[simp] theorem encodePayload_lambda (k npar : Nat) : (s.encodePayload k npar).lambda = s.lambda := rfl
@[simp] theorem encodePayload_omega (k npar : Nat) : (s.encodePayload k npar).omega = s.omega := rfl
@[simp] theorem encodePayload_errloc (k npar : Nat) : (s.encodePayload k npar).errloc = s.errloc := rfl
@[simp] theorem encodePayload_res (k npar : Nat) : (s.encodePayload k npar).res = s.res := rfl
@[simp] theorem encodePayload_resk (k npar : Nat) : (s.encodePayload k npar).resk = s.resk := rfl
@[simp] theorem encodePayload_result (k npar : Nat) : (s.encodePayload k npar).result = s.result := rfl
@[simp] theorem encodePayload_synnz (k npar : Nat) : (s.encodePayload k npar).synnz = s.synnz := rfl
@[simp] theorem encodePayload_nerr (k npar : Nat) : (s.encodePayload k npar).nerr = s.nerr := rfl
@[simp] theorem encodePayload_flen (k npar : Nat) : (s.encodePayload k npar).flen = s.flen := rfl
@[simp] theorem encodePayload_plen (k npar : Nat) : (s.encodePayload k npar).plen = s.plen := rfl
@[simp] theorem encodePayload_rxflags (k npar : Nat) : (s.encodePayload k npar).rxflags = s.rxflags := rfl
@[simp] theorem encodePayload_cfg (k npar : Nat) : (s.encodePayload k npar).cfg = s.cfg := rfl
@[simp] theorem encodePayload_tbudget (k npar : Nat) : (s.encodePayload k npar).tbudget = s.tbudget := rfl
@[simp] theorem encodePayload_khail (k npar : Nat) : (s.encodePayload k npar).khail = s.khail := rfl
@[simp] theorem encodePayload_fault (k npar : Nat) : (s.encodePayload k npar).fault = s.fault := rfl

@[simp] theorem computeSyndromes_dbuf (k npar : Nat) : (s.computeSyndromes k npar).dbuf = s.dbuf := rfl
@[simp] theorem computeSyndromes_fbuf (k npar : Nat) : (s.computeSyndromes k npar).fbuf = s.fbuf := rfl
@[simp] theorem computeSyndromes_gen (k npar : Nat) : (s.computeSyndromes k npar).gen = s.gen := rfl
@[simp] theorem computeSyndromes_par (k npar : Nat) : (s.computeSyndromes k npar).par = s.par := rfl
@[simp] theorem computeSyndromes_lambda (k npar : Nat) : (s.computeSyndromes k npar).lambda = s.lambda := rfl
@[simp] theorem computeSyndromes_omega (k npar : Nat) : (s.computeSyndromes k npar).omega = s.omega := rfl
@[simp] theorem computeSyndromes_errloc (k npar : Nat) : (s.computeSyndromes k npar).errloc = s.errloc := rfl
@[simp] theorem computeSyndromes_res (k npar : Nat) : (s.computeSyndromes k npar).res = s.res := rfl
@[simp] theorem computeSyndromes_resk (k npar : Nat) : (s.computeSyndromes k npar).resk = s.resk := rfl
@[simp] theorem computeSyndromes_result (k npar : Nat) : (s.computeSyndromes k npar).result = s.result := rfl
@[simp] theorem computeSyndromes_nerr (k npar : Nat) : (s.computeSyndromes k npar).nerr = s.nerr := rfl
@[simp] theorem computeSyndromes_flen (k npar : Nat) : (s.computeSyndromes k npar).flen = s.flen := rfl
@[simp] theorem computeSyndromes_plen (k npar : Nat) : (s.computeSyndromes k npar).plen = s.plen := rfl
@[simp] theorem computeSyndromes_rxflags (k npar : Nat) : (s.computeSyndromes k npar).rxflags = s.rxflags := rfl
@[simp] theorem computeSyndromes_cfg (k npar : Nat) : (s.computeSyndromes k npar).cfg = s.cfg := rfl
@[simp] theorem computeSyndromes_tbudget (k npar : Nat) : (s.computeSyndromes k npar).tbudget = s.tbudget := rfl
@[simp] theorem computeSyndromes_khail (k npar : Nat) : (s.computeSyndromes k npar).khail = s.khail := rfl
@[simp] theorem computeSyndromes_fault (k npar : Nat) : (s.computeSyndromes k npar).fault = s.fault := rfl

@[simp] theorem correct_fbuf (n : Nat) (is : List Nat) (es : List Byte) : (s.correct n is es).fbuf = s.fbuf := by
  induction is generalizing s es with
  | nil => cases es <;> rfl
  | cons i is ih => cases es with
    | nil => rfl
    | cons e es => exact ih _ es
@[simp] theorem correct_gen (n : Nat) (is : List Nat) (es : List Byte) : (s.correct n is es).gen = s.gen := by
  induction is generalizing s es with
  | nil => cases es <;> rfl
  | cons i is ih => cases es with
    | nil => rfl
    | cons e es => exact ih _ es
@[simp] theorem correct_par (n : Nat) (is : List Nat) (es : List Byte) : (s.correct n is es).par = s.par := by
  induction is generalizing s es with
  | nil => cases es <;> rfl
  | cons i is ih => cases es with
    | nil => rfl
    | cons e es => exact ih _ es
@[simp] theorem correct_syn (n : Nat) (is : List Nat) (es : List Byte) : (s.correct n is es).syn = s.syn := by
  induction is generalizing s es with
  | nil => cases es <;> rfl
  | cons i is ih => cases es with
    | nil => rfl
    | cons e es => exact ih _ es
@[simp] theorem correct_lambda (n : Nat) (is : List Nat) (es : List Byte) : (s.correct n is es).lambda = s.lambda := by
  induction is generalizing s es with
  | nil => cases es <;> rfl
  | cons i is ih => cases es with
    | nil => rfl
    | cons e es => exact ih _ es
@[simp] theorem correct_omega (n : Nat) (is : List Nat) (es : List Byte) : (s.correct n is es).omega = s.omega := by
  induction is generalizing s es with
  | nil => cases es <;> rfl
  | cons i is ih => cases es with
    | nil => rfl
    | cons e es => exact ih _ es
@[simp] theorem correct_errloc (n : Nat) (is : List Nat) (es : List Byte) : (s.correct n is es).errloc = s.errloc := by
  induction is generalizing s es with
  | nil => cases es <;> rfl
  | cons i is ih => cases es with
    | nil => rfl
    | cons e es => exact ih _ es
@[simp] theorem correct_res (n : Nat) (is : List Nat) (es : List Byte) : (s.correct n is es).res = s.res := by
  induction is generalizing s es with
  | nil => cases es <;> rfl
  | cons i is ih => cases es with
    | nil => rfl
    | cons e es => exact ih _ es
@[simp] theorem correct_resk (n : Nat) (is : List Nat) (es : List Byte) : (s.correct n is es).resk = s.resk := by
  induction is generalizing s es with
  | nil => cases es <;> rfl
  | cons i is ih => cases es with
    | nil => rfl
    | cons e es => exact ih _ es
@[simp] theorem correct_result (n : Nat) (is : List Nat) (es : List Byte) : (s.correct n is es).result = s.result := by
  induction is generalizing s es with
  | nil => cases es <;> rfl
  | cons i is ih => cases es with
    | nil => rfl
    | cons e es => exact ih _ es
@[simp] theorem correct_synnz (n : Nat) (is : List Nat) (es : List Byte) : (s.correct n is es).synnz = s.synnz := by
  induction is generalizing s es with
  | nil => cases es <;> rfl
  | cons i is ih => cases es with
    | nil => rfl
    | cons e es => exact ih _ es
@[simp] theorem correct_nerr (n : Nat) (is : List Nat) (es : List Byte) : (s.correct n is es).nerr = s.nerr := by
  induction is generalizing s es with
  | nil => cases es <;> rfl
  | cons i is ih => cases es with
    | nil => rfl
    | cons e es => exact ih _ es
@[simp] theorem correct_flen (n : Nat) (is : List Nat) (es : List Byte) : (s.correct n is es).flen = s.flen := by
  induction is generalizing s es with
  | nil => cases es <;> rfl
  | cons i is ih => cases es with
    | nil => rfl
    | cons e es => exact ih _ es
@[simp] theorem correct_plen (n : Nat) (is : List Nat) (es : List Byte) : (s.correct n is es).plen = s.plen := by
  induction is generalizing s es with
  | nil => cases es <;> rfl
  | cons i is ih => cases es with
    | nil => rfl
    | cons e es => exact ih _ es
@[simp] theorem correct_rxflags (n : Nat) (is : List Nat) (es : List Byte) : (s.correct n is es).rxflags = s.rxflags := by
  induction is generalizing s es with
  | nil => cases es <;> rfl
  | cons i is ih => cases es with
    | nil => rfl
    | cons e es => exact ih _ es
@[simp] theorem correct_cfg (n : Nat) (is : List Nat) (es : List Byte) : (s.correct n is es).cfg = s.cfg := by
  induction is generalizing s es with
  | nil => cases es <;> rfl
  | cons i is ih => cases es with
    | nil => rfl
    | cons e es => exact ih _ es
@[simp] theorem correct_tbudget (n : Nat) (is : List Nat) (es : List Byte) : (s.correct n is es).tbudget = s.tbudget := by
  induction is generalizing s es with
  | nil => cases es <;> rfl
  | cons i is ih => cases es with
    | nil => rfl
    | cons e es => exact ih _ es
@[simp] theorem correct_khail (n : Nat) (is : List Nat) (es : List Byte) : (s.correct n is es).khail = s.khail := by
  induction is generalizing s es with
  | nil => cases es <;> rfl
  | cons i is ih => cases es with
    | nil => rfl
    | cons e es => exact ih _ es
@[simp] theorem correct_fault (n : Nat) (is : List Nat) (es : List Byte) : (s.correct n is es).fault = s.fault := by
  induction is generalizing s es with
  | nil => cases es <;> rfl
  | cons i is ih => cases es with
    | nil => rfl
    | cons e es => exact ih _ es

@[simp] theorem decodeCodeword_fbuf (k npar : Nat) : (s.decodeCodeword k npar).fbuf = s.fbuf := by
  unfold decodeCodeword; dsimp only; repeat' split
  all_goals simp
@[simp] theorem decodeCodeword_gen (k npar : Nat) : (s.decodeCodeword k npar).gen = s.gen := by
  unfold decodeCodeword; dsimp only; repeat' split
  all_goals simp
@[simp] theorem decodeCodeword_par (k npar : Nat) : (s.decodeCodeword k npar).par = s.par := by
  unfold decodeCodeword; dsimp only; repeat' split
  all_goals simp
@[simp] theorem decodeCodeword_res (k npar : Nat) : (s.decodeCodeword k npar).res = s.res := by
  unfold decodeCodeword; dsimp only; repeat' split
  all_goals simp
@[simp] theorem decodeCodeword_resk (k npar : Nat) : (s.decodeCodeword k npar).resk = s.resk := by
  unfold decodeCodeword; dsimp only; repeat' split
  all_goals simp
@[simp] theorem decodeCodeword_flen (k npar : Nat) : (s.decodeCodeword k npar).flen = s.flen := by
  unfold decodeCodeword; dsimp only; repeat' split
  all_goals simp
@[simp] theorem decodeCodeword_plen (k npar : Nat) : (s.decodeCodeword k npar).plen = s.plen := by
  unfold decodeCodeword; dsimp only; repeat' split
  all_goals simp
@[simp] theorem decodeCodeword_rxflags (k npar : Nat) : (s.decodeCodeword k npar).rxflags = s.rxflags := by
  unfold decodeCodeword; dsimp only; repeat' split
  all_goals simp
@[simp] theorem decodeCodeword_cfg (k npar : Nat) : (s.decodeCodeword k npar).cfg = s.cfg := by
  unfold decodeCodeword; dsimp only; repeat' split
  all_goals simp
@[simp] theorem decodeCodeword_tbudget (k npar : Nat) : (s.decodeCodeword k npar).tbudget = s.tbudget := by
  unfold decodeCodeword; dsimp only; repeat' split
  all_goals simp
@[simp] theorem decodeCodeword_khail (k npar : Nat) : (s.decodeCodeword k npar).khail = s.khail := by
  unfold decodeCodeword; dsimp only; repeat' split
  all_goals simp
@[simp] theorem decodeCodeword_fault (k npar : Nat) : (s.decodeCodeword k npar).fault = s.fault := by
  unfold decodeCodeword; dsimp only; repeat' split
  all_goals simp

@[simp] theorem validateChecksum_dbuf (c : Bool) (n : Nat) : (s.validateChecksum c n).dbuf = s.dbuf := by
  unfold validateChecksum; split <;> rfl
@[simp] theorem validateChecksum_fbuf (c : Bool) (n : Nat) : (s.validateChecksum c n).fbuf = s.fbuf := by
  unfold validateChecksum; split <;> rfl
@[simp] theorem validateChecksum_gen (c : Bool) (n : Nat) : (s.validateChecksum c n).gen = s.gen := by
  unfold validateChecksum; split <;> rfl
@[simp] theorem validateChecksum_par (c : Bool) (n : Nat) : (s.validateChecksum c n).par = s.par := by
  unfold validateChecksum; split <;> rfl
@[simp] theorem validateChecksum_syn (c : Bool) (n : Nat) : (s.validateChecksum c n).syn = s.syn := by
  unfold validateChecksum; split <;> rfl
@[simp] theorem validateChecksum_lambda (c : Bool) (n : Nat) : (s.validateChecksum c n).lambda = s.lambda := by
  unfold validateChecksum; split <;> rfl
@[simp] theorem validateChecksum_omega (c : Bool) (n : Nat) : (s.validateChecksum c n).omega = s.omega := by
  unfold validateChecksum; split <;> rfl
@[simp] theorem validateChecksum_errloc (c : Bool) (n : Nat) : (s.validateChecksum c n).errloc = s.errloc := by
  unfold validateChecksum; split <;> rfl
@[simp] theorem validateChecksum_res (c : Bool) (n : Nat) : (s.validateChecksum c n).res = s.res := by
  unfold validateChecksum; split <;> rfl
@[simp] theorem validateChecksum_resk (c : Bool) (n : Nat) : (s.validateChecksum c n).resk = s.resk := by
  unfold validateChecksum; split <;> rfl
@[simp] theorem validateChecksum_synnz (c : Bool) (n : Nat) : (s.validateChecksum c n).synnz = s.synnz := by
  unfold validateChecksum; split <;> rfl
@[simp] theorem validateChecksum_nerr (c : Bool) (n : Nat) : (s.validateChecksum c n).nerr = s.nerr := by
  unfold validateChecksum; split <;> rfl
@[simp] theorem validateChecksum_flen (c : Bool) (n : Nat) : (s.validateChecksum c n).flen = s.flen := by
  unfold validateChecksum; split <;> rfl
@[simp] theorem validateChecksum_plen (c : Bool) (n : Nat) : (s.validateChecksum c n).plen = s.plen := by
  unfold validateChecksum; split <;> rfl
@[simp] theorem validateChecksum_rxflags (c : Bool) (n : Nat) : (s.validateChecksum c n).rxflags = s.rxflags := by
  unfold validateChecksum; split <;> rfl
@[simp] theorem validateChecksum_cfg (c : Bool) (n : Nat) : (s.validateChecksum c n).cfg = s.cfg := by
  unfold validateChecksum; split <;> rfl
@[simp] theorem validateChecksum_tbudget (c : Bool) (n : Nat) : (s.validateChecksum c n).tbudget = s.tbudget := by
  unfold validateChecksum; split <;> rfl
@[simp] theorem validateChecksum_khail (c : Bool) (n : Nat) : (s.validateChecksum c n).khail = s.khail := by
  unfold validateChecksum; split <;> rfl
@[simp] theorem validateChecksum_fault (c : Bool) (n : Nat) : (s.validateChecksum c n).fault = s.fault := by
  unfold validateChecksum; split <;> rfl

@[simp] theorem parseBody_fbuf (c e : Bool) (k t : Nat) : (s.parseBody c e k t).fbuf = s.fbuf := by
  unfold parseBody; dsimp only; repeat' split
  all_goals simp
@[simp] theorem parseBody_gen (c e : Bool) (k t : Nat) : (s.parseBody c e k t).gen = s.gen := by
  unfold parseBody; dsimp only; repeat' split
  all_goals simp
@[simp] theorem parseBody_par (c e : Bool) (k t : Nat) : (s.parseBody c e k t).par = s.par := by
  unfold parseBody; dsimp only; repeat' split
  all_goals simp
@[simp] theorem parseBody_res (c e : Bool) (k t : Nat) : (s.parseBody c e k t).res = s.res := by
  unfold parseBody; dsimp only; repeat' split
  all_goals simp
@[simp] theorem parseBody_resk (c e : Bool) (k t : Nat) : (s.parseBody c e k t).resk = s.resk := by
  unfold parseBody; dsimp only; repeat' split
  all_goals simp
@[simp] theorem parseBody_flen (c e : Bool) (k t : Nat) : (s.parseBody c e k t).flen = s.flen := by
  unfold parseBody; dsimp only; repeat' split
  all_goals simp
@[simp] theorem parseBody_plen (c e : Bool) (k t : Nat) : (s.parseBody c e k t).plen = s.plen := by
  unfold parseBody; dsimp only; repeat' split
  all_goals simp
@[simp] theorem parseBody_rxflags (c e : Bool) (k t : Nat) : (s.parseBody c e k t).rxflags = s.rxflags := by
  unfold parseBody; dsimp only; repeat' split
  all_goals simp
@[simp] theorem parseBody_cfg (c e : Bool) (k t : Nat) : (s.parseBody c e k t).cfg = s.cfg := by
  unfold parseBody; dsimp only; repeat' split
  all_goals simp
@[simp] theorem parseBody_tbudget (c e : Bool) (k t : Nat) : (s.parseBody c e k t).tbudget = s.tbudget := by
  unfold parseBody; dsimp only; repeat' split
  all_goals simp
@[simp] theorem parseBody_khail (c e : Bool) (k t : Nat) : (s.parseBody c e k t).khail = s.khail := by
  unfold parseBody; dsimp only; repeat' split
  all_goals simp
@[simp] theorem parseBody_fault (c e : Bool) (k t : Nat) : (s.parseBody c e k t).fault = s.fault := by
  unfold parseBody; dsimp only; repeat' split
  all_goals simp

@[simp] theorem parseFrame_fbuf (len : Nat) : (s.parseFrame len).fbuf = s.fbuf := by
  unfold parseFrame; dsimp only; repeat' split
  all_goals simp
@[simp] theorem parseFrame_gen (len : Nat) : (s.parseFrame len).gen = s.gen := by
  unfold parseFrame; dsimp only; repeat' split
  all_goals simp
@[simp] theorem parseFrame_par (len : Nat) : (s.parseFrame len).par = s.par := by
  unfold parseFrame; dsimp only; repeat' split
  all_goals simp
@[simp] theorem parseFrame_res (len : Nat) : (s.parseFrame len).res = s.res := by
  unfold parseFrame; dsimp only; repeat' split
  all_goals simp
@[simp] theorem parseFrame_resk (len : Nat) : (s.parseFrame len).resk = s.resk := by
  unfold parseFrame; dsimp only; repeat' split
  all_goals simp
@[simp] theorem parseFrame_cfg (len : Nat) : (s.parseFrame len).cfg = s.cfg := by
  unfold parseFrame; dsimp only; repeat' split
  all_goals simp
@[simp] theorem parseFrame_tbudget (len : Nat) : (s.parseFrame len).tbudget = s.tbudget := by
  unfold parseFrame; dsimp only; repeat' split
  all_goals simp
@[simp] theorem parseFrame_khail (len : Nat) : (s.parseFrame len).khail = s.khail := by
  unfold parseFrame; dsimp only; repeat' split
  all_goals simp
@[simp] theorem parseFrame_fault (len : Nat) : (s.parseFrame len).fault = s.fault := by
  unfold parseFrame; dsimp only; repeat' split
  all_goals simp

@[simp] theorem buildFrame_syn (k : Nat) : (s.buildFrame k).syn = s.syn := by
  unfold buildFrame; dsimp only; split <;> simp
@[simp] theorem buildFrame_lambda (k : Nat) : (s.buildFrame k).lambda = s.lambda := by
  unfold buildFrame; dsimp only; split <;> simp
@[simp] theorem buildFrame_omega (k : Nat) : (s.buildFrame k).omega = s.omega := by
  unfold buildFrame; dsimp only; split <;> simp
@[simp] theorem buildFrame_errloc (k : Nat) : (s.buildFrame k).errloc = s.errloc := by
  unfold buildFrame; dsimp only; split <;> simp
@[simp] theorem buildFrame_res (k : Nat) : (s.buildFrame k).res = s.res := by
  unfold buildFrame; dsimp only; split <;> simp
@[simp] theorem buildFrame_resk (k : Nat) : (s.buildFrame k).resk = s.resk := by
  unfold buildFrame; dsimp only; split <;> simp
@[simp] theorem buildFrame_synnz (k : Nat) : (s.buildFrame k).synnz = s.synnz := by
  unfold buildFrame; dsimp only; split <;> simp
@[simp] theorem buildFrame_nerr (k : Nat) : (s.buildFrame k).nerr = s.nerr := by
  unfold buildFrame; dsimp only; split <;> simp
@[simp] theorem buildFrame_rxflags (k : Nat) : (s.buildFrame k).rxflags = s.rxflags := by
  unfold buildFrame; dsimp only; split <;> simp
@[simp] theorem buildFrame_cfg (k : Nat) : (s.buildFrame k).cfg = s.cfg := by
  unfold buildFrame; dsimp only; split <;> simp
@[simp] theorem buildFrame_tbudget (k : Nat) : (s.buildFrame k).tbudget = s.tbudget := by
  unfold buildFrame; dsimp only; split <;> simp
@[simp] theorem buildFrame_khail (k : Nat) : (s.buildFrame k).khail = s.khail := by
  unfold buildFrame; dsimp only; split <;> simp
@[simp] theorem buildFrame_fault (k : Nat) : (s.buildFrame k).fault = s.fault := by
  unfold buildFrame; dsimp only; split <;> simp

@[simp] theorem lineSymbol_dbuf (idx : Nat) : (s.lineSymbol idx).dbuf = s.dbuf := by
  unfold lineSymbol; dsimp only; repeat' split
  all_goals rfl
@[simp] theorem lineSymbol_fbuf (idx : Nat) : (s.lineSymbol idx).fbuf = s.fbuf := by
  unfold lineSymbol; dsimp only; repeat' split
  all_goals rfl
@[simp] theorem lineSymbol_gen (idx : Nat) : (s.lineSymbol idx).gen = s.gen := by
  unfold lineSymbol; dsimp only; repeat' split
  all_goals rfl
@[simp] theorem lineSymbol_par (idx : Nat) : (s.lineSymbol idx).par = s.par := by
  unfold lineSymbol; dsimp only; repeat' split
  all_goals rfl
@[simp] theorem lineSymbol_syn (idx : Nat) : (s.lineSymbol idx).syn = s.syn := by
  unfold lineSymbol; dsimp only; repeat' split
  all_goals rfl
@[simp] theorem lineSymbol_lambda (idx : Nat) : (s.lineSymbol idx).lambda = s.lambda := by
  unfold lineSymbol; dsimp only; repeat' split
  all_goals rfl
@[simp] theorem lineSymbol_omega (idx : Nat) : (s.lineSymbol idx).omega = s.omega := by
  unfold lineSymbol; dsimp only; repeat' split
  all_goals rfl
@[simp] theorem lineSymbol_errloc (idx : Nat) : (s.lineSymbol idx).errloc = s.errloc := by
  unfold lineSymbol; dsimp only; repeat' split
  all_goals rfl
@[simp] theorem lineSymbol_result (idx : Nat) : (s.lineSymbol idx).result = s.result := by
  unfold lineSymbol; dsimp only; repeat' split
  all_goals rfl
@[simp] theorem lineSymbol_synnz (idx : Nat) : (s.lineSymbol idx).synnz = s.synnz := by
  unfold lineSymbol; dsimp only; repeat' split
  all_goals rfl
@[simp] theorem lineSymbol_nerr (idx : Nat) : (s.lineSymbol idx).nerr = s.nerr := by
  unfold lineSymbol; dsimp only; repeat' split
  all_goals rfl
@[simp] theorem lineSymbol_flen (idx : Nat) : (s.lineSymbol idx).flen = s.flen := by
  unfold lineSymbol; dsimp only; repeat' split
  all_goals rfl
@[simp] theorem lineSymbol_plen (idx : Nat) : (s.lineSymbol idx).plen = s.plen := by
  unfold lineSymbol; dsimp only; repeat' split
  all_goals rfl
@[simp] theorem lineSymbol_rxflags (idx : Nat) : (s.lineSymbol idx).rxflags = s.rxflags := by
  unfold lineSymbol; dsimp only; repeat' split
  all_goals rfl
@[simp] theorem lineSymbol_cfg (idx : Nat) : (s.lineSymbol idx).cfg = s.cfg := by
  unfold lineSymbol; dsimp only; repeat' split
  all_goals rfl
@[simp] theorem lineSymbol_tbudget (idx : Nat) : (s.lineSymbol idx).tbudget = s.tbudget := by
  unfold lineSymbol; dsimp only; repeat' split
  all_goals rfl
@[simp] theorem lineSymbol_khail (idx : Nat) : (s.lineSymbol idx).khail = s.khail := by
  unfold lineSymbol; dsimp only; repeat' split
  all_goals rfl
@[simp] theorem lineSymbol_fault (idx : Nat) : (s.lineSymbol idx).fault = s.fault := by
  unfold lineSymbol; dsimp only; repeat' split
  all_goals rfl

@[simp] theorem store_gen (p : Place) (v : Byte) : (s.store p v).gen = s.gen := by
  unfold store; split <;> rfl
@[simp] theorem store_par (p : Place) (v : Byte) : (s.store p v).par = s.par := by
  unfold store; split <;> rfl
@[simp] theorem store_syn (p : Place) (v : Byte) : (s.store p v).syn = s.syn := by
  unfold store; split <;> rfl
@[simp] theorem store_lambda (p : Place) (v : Byte) : (s.store p v).lambda = s.lambda := by
  unfold store; split <;> rfl
@[simp] theorem store_omega (p : Place) (v : Byte) : (s.store p v).omega = s.omega := by
  unfold store; split <;> rfl
@[simp] theorem store_errloc (p : Place) (v : Byte) : (s.store p v).errloc = s.errloc := by
  unfold store; split <;> rfl
@[simp] theorem store_res (p : Place) (v : Byte) : (s.store p v).res = s.res := by
  unfold store; split <;> rfl
@[simp] theorem store_resk (p : Place) (v : Byte) : (s.store p v).resk = s.resk := by
  unfold store; split <;> rfl
@[simp] theorem store_result (p : Place) (v : Byte) : (s.store p v).result = s.result := by
  unfold store; split <;> rfl
@[simp] theorem store_synnz (p : Place) (v : Byte) : (s.store p v).synnz = s.synnz := by
  unfold store; split <;> rfl
@[simp] theorem store_nerr (p : Place) (v : Byte) : (s.store p v).nerr = s.nerr := by
  unfold store; split <;> rfl
@[simp] theorem store_flen (p : Place) (v : Byte) : (s.store p v).flen = s.flen := by
  unfold store; split <;> rfl
@[simp] theorem store_plen (p : Place) (v : Byte) : (s.store p v).plen = s.plen := by
  unfold store; split <;> rfl
@[simp] theorem store_rxflags (p : Place) (v : Byte) : (s.store p v).rxflags = s.rxflags := by
  unfold store; split <;> rfl
@[simp] theorem store_tbudget (p : Place) (v : Byte) : (s.store p v).tbudget = s.tbudget := by
  unfold store; split <;> rfl
@[simp] theorem store_khail (p : Place) (v : Byte) : (s.store p v).khail = s.khail := by
  unfold store; split <;> rfl
@[simp] theorem store_fault (p : Place) (v : Byte) : (s.store p v).fault = s.fault := by
  unfold store; split <;> rfl

end Sys2Proof.Machine.Block
end

