-- ==== Sys2Proof/Laws/Memory.lean ====
section
/-! SUPPORT. The laws of the byte arrays: reading after writing, the canonical form, equality by reading. -/

namespace Sys2Proof.Machine.Memory

/-! ## Reading -/

@[simp] theorem read_nil (i : Nat) : read [] i = 0 := rfl

theorem read_cons (j i : Nat) (v : Byte) (m : Memory) :
    read ((j, v) :: m) i = if j = i then v else read m i := rfl

theorem read_drop (m : Memory) (i j : Nat) : (m.drop i).read j = if i = j then 0 else m.read j := by
  induction m with
  | nil => simp [drop]
  | cons c m ih =>
    obtain ⟨k, v⟩ := c
    by_cases h : k = i
    · subst h
      have : drop ((k, v) :: m) k = drop m k := by simp [drop]
      rw [this, ih, read_cons]; split <;> simp_all
    · have : drop ((k, v) :: m) i = (k, v) :: drop m i := by simp [drop, h]
      rw [this, read_cons, ih, read_cons]; split <;> split <;> simp_all

theorem read_place (m : Memory) (i j : Nat) (v : Byte) (hm : ∀ w, (i, w) ∉ m) :
    (place i v m).read j = if i = j then v else m.read j := by
  induction m with
  | nil => simp [place, read_cons]
  | cons c m ih =>
    obtain ⟨k, w⟩ := c
    have hk : k ≠ i := fun h => hm w (by simp [h])
    have hm' : ∀ w, (i, w) ∉ m := fun w' h => hm w' (List.mem_cons_of_mem _ h)
    simp only [place]
    split
    · rw [read_cons]
    · rw [read_cons, ih hm', read_cons]; split <;> split <;> simp_all

theorem not_mem_drop (m : Memory) (i : Nat) (w : Byte) : (i, w) ∉ m.drop i := by simp [drop]

/-- Reading after one write: the byte written, and every other byte as before. -/
@[simp] theorem read_write (m : Memory) (i j : Nat) (v : Byte) :
    (m.write i v).read j = if i = j then v else m.read j := by
  unfold write
  split
  · rename_i h; rw [read_drop]; split <;> simp_all [unlisted]
  · rw [read_place _ _ _ _ (not_mem_drop m i), read_drop]; split <;> simp_all

theorem read_write_same (m : Memory) (i : Nat) (v : Byte) : (m.write i v).read i = v := by simp

theorem read_write_other (m : Memory) {i j : Nat} (v : Byte) (h : i ≠ j) : (m.write i v).read j = m.read j := by
  simp [h]

/-- Reading after a run of writes: the bytes written in their range, and every other byte as before. -/
theorem read_writeBytes (m : Memory) (base j : Nat) (bs : List Byte) :
    (m.writeBytes base bs).read j =
      if base ≤ j ∧ j < base + bs.length then bs.getD (j - base) 0 else m.read j := by
  induction bs generalizing m base with
  | nil => rw [if_neg (by simp only [List.length_nil]; omega), writeBytes]
  | cons b bs ih =>
    rw [writeBytes, ih, read_write]
    simp only [List.length_cons]
    by_cases h1 : base = j
    · rw [if_neg (by omega), if_pos h1, if_pos (by omega), show j - base = 0 by omega]; rfl
    · by_cases h2 : base + 1 ≤ j ∧ j < base + 1 + bs.length
      · rw [if_pos h2, if_pos (by omega), show j - base = (j - (base + 1)) + 1 by omega]; rfl
      · rw [if_neg h2, if_neg h1, if_neg (by omega)]

theorem read_writeBytes_in (m : Memory) {base i : Nat} {bs : List Byte} (h : i < bs.length) :
    (m.writeBytes base bs).read (base + i) = bs.getD i 0 := by
  rw [read_writeBytes, if_pos (by omega)]; congr 1; omega

theorem read_writeBytes_out (m : Memory) {base j : Nat} {bs : List Byte}
    (h : j < base ∨ base + bs.length ≤ j) : (m.writeBytes base bs).read j = m.read j := by
  rw [read_writeBytes, if_neg (by omega)]

theorem read_ofBytesAt (base j : Nat) (bs : List Byte) :
    (ofBytesAt base bs).read j = if base ≤ j then bs.getD (j - base) 0 else 0 := by
  induction bs generalizing base with
  | nil => simp [ofBytesAt]
  | cons b bs ih =>
    have hrec : (ofBytesAt base (b :: bs)).read j = if base = j then b else (ofBytesAt (base + 1) bs).read j := by
      simp only [ofBytesAt]
      split
      · rename_i h
        split
        · rename_i hj
          rw [ih, if_neg (by omega)]; simp [h, unlisted]
        · rfl
      · rw [read_cons]
    rw [hrec, ih]
    by_cases h1 : base = j
    · subst h1; simp
    · by_cases h2 : base + 1 ≤ j
      · have h4 : j - base = (j - (base + 1)) + 1 := by omega
        have h3 : base ≤ j := by omega
        simp [h1, h2, h3, h4]
      · have h3 : ¬ base ≤ j := by omega
        simp [h1, h2, h3]

/-- Reading an array written whole: the bytes given, and 0 above them. -/
@[simp] theorem read_ofBytes (bs : List Byte) (j : Nat) : (ofBytes bs).read j = bs.getD j 0 := by
  simp [ofBytes, read_ofBytesAt]

@[simp] theorem length_bytes (m : Memory) (base n : Nat) : (m.bytes base n).length = n := by simp [bytes]

theorem getD_bytes (m : Memory) {base n i : Nat} (h : i < n) : (m.bytes base n).getD i 0 = m.read (base + i) := by
  simp [bytes, h]

/-! ## The canonical form -/

theorem wf_cons (i : Nat) (v : Byte) (m : Memory) :
    wf ((i, v) :: m) = true ↔ v ≠ 0 ∧ (∀ c ∈ m, i < c.1) ∧ wf m = true := by
  induction m generalizing i v with
  | nil => simp [wf, unlisted]
  | cons c m ih =>
    obtain ⟨j, w⟩ := c
    simp only [wf, Bool.and_eq_true, bne_iff_ne, decide_eq_true_eq, List.mem_cons, forall_eq_or_imp, unlisted]
    constructor
    · rintro ⟨⟨hv, hij⟩, hm⟩
      refine ⟨hv, ⟨hij, fun c hc => ?_⟩, hm⟩
      have := ((ih j w).1 hm).2.1 c hc
      omega
    · rintro ⟨hv, ⟨hij, _⟩, hm⟩
      exact ⟨⟨hv, hij⟩, hm⟩

theorem wf_drop {m : Memory} (h : m.wf = true) (i : Nat) : (m.drop i).wf = true := by
  induction m with
  | nil => rfl
  | cons c m ih =>
    obtain ⟨k, v⟩ := c
    rw [wf_cons] at h
    by_cases hk : k = i
    · have : drop ((k, v) :: m) i = drop m i := by simp [drop, hk]
      rw [this]; exact ih h.2.2
    · have : drop ((k, v) :: m) i = (k, v) :: drop m i := by simp [drop, hk]
      rw [this, wf_cons]
      exact ⟨h.1, fun c hc => h.2.1 c (List.mem_filter.1 hc |>.1), ih h.2.2⟩

theorem mem_place {i : Nat} {v : Byte} {m : Memory} {c : Host.Cell} (h : c ∈ place i v m) : c = (i, v) ∨ c ∈ m := by
  induction m with
  | nil => simpa [place] using h
  | cons d m ih =>
    obtain ⟨j, w⟩ := d
    simp only [place] at h
    split at h
    · simpa using h
    · rcases List.mem_cons.1 h with h | h
      · simp [h]
      · rcases ih h with h | h <;> simp [h]

theorem wf_place {m : Memory} (h : m.wf = true) (i : Nat) {v : Byte} (hv : v ≠ 0) (hm : ∀ w, (i, w) ∉ m) :
    (place i v m).wf = true := by
  induction m with
  | nil => simpa [place, wf, unlisted] using hv
  | cons c m ih =>
    obtain ⟨j, w⟩ := c
    have h' := h
    rw [wf_cons] at h
    have hj : j ≠ i := fun e => hm w (by simp [e])
    simp only [place]
    split
    · rename_i hij
      rw [wf_cons]
      refine ⟨hv, fun c hc => ?_, h'⟩
      rcases List.mem_cons.1 hc with rfl | hc
      · exact hij
      · exact Nat.lt_trans hij (h.2.1 c hc)
    · rename_i hij
      rw [wf_cons]
      refine ⟨h.1, fun c hc => ?_, ih h.2.2 fun w hw => hm w (List.mem_cons_of_mem _ hw)⟩
      rcases mem_place hc with rfl | hc
      · simp; omega
      · exact h.2.1 c hc

/-- A write keeps the canonical form. -/
theorem wf_write {m : Memory} (h : m.wf = true) (i : Nat) (v : Byte) : (m.write i v).wf = true := by
  unfold write
  split
  · exact wf_drop h i
  · exact wf_place (wf_drop h i) i ‹_› (not_mem_drop m i)

/-- A run of writes keeps the canonical form. -/
theorem wf_writeBytes {m : Memory} (h : m.wf = true) (base : Nat) (bs : List Byte) :
    (m.writeBytes base bs).wf = true := by
  induction bs generalizing m base with
  | nil => exact h
  | cons b bs ih => exact ih (wf_write h base b) (base + 1)

theorem mem_ofBytesAt {base : Nat} {bs : List Byte} {c : Host.Cell} (h : c ∈ ofBytesAt base bs) :
    base ≤ c.1 ∧ c.1 < base + bs.length := by
  induction bs generalizing base with
  | nil => simp [ofBytesAt] at h
  | cons b bs ih =>
    simp only [ofBytesAt] at h
    split at h
    · have := ih h; simp; omega
    · rcases List.mem_cons.1 h with rfl | h
      · simp
      · have := ih h; simp; omega

theorem wf_ofBytesAt (base : Nat) (bs : List Byte) : (ofBytesAt base bs).wf = true := by
  induction bs generalizing base with
  | nil => rfl
  | cons b bs ih =>
    simp only [ofBytesAt]
    split
    · exact ih _
    · rw [wf_cons]
      exact ⟨‹_›, fun c hc => by have := mem_ofBytesAt hc; omega, ih _⟩

/-- An array written whole is in canonical form. -/
@[simp] theorem wf_ofBytes (bs : List Byte) : (ofBytes bs).wf = true := wf_ofBytesAt 0 bs

/-! ## Bounds -/

theorem within_iff (m : Memory) (n : Nat) : m.within n = true ↔ ∀ c ∈ m, c.1 < n := by simp [within]

theorem within_write {m : Memory} {n i : Nat} (h : m.within n = true) (hi : i < n) (v : Byte) :
    (m.write i v).within n = true := by
  rw [within_iff] at h ⊢
  intro c hc
  unfold write at hc
  split at hc
  · exact h c (List.mem_filter.1 hc |>.1)
  · rcases mem_place hc with rfl | hc
    · exact hi
    · exact h c (List.mem_filter.1 hc |>.1)

theorem within_writeBytes {m : Memory} {n : Nat} (h : m.within n = true) {base : Nat} {bs : List Byte}
    (hb : base + bs.length ≤ n) : (m.writeBytes base bs).within n = true := by
  induction bs generalizing m base with
  | nil => exact h
  | cons b bs ih =>
    simp only [List.length_cons] at hb
    exact ih (within_write h (by omega) b) (by omega)

theorem within_ofBytes {bs : List Byte} {n : Nat} (h : bs.length ≤ n) : (ofBytes bs).within n = true := by
  rw [within_iff]
  intro c hc
  have := mem_ofBytesAt hc
  omega

/-! ## Equality by reading -/

theorem read_eq_zero_of_lt {m : Memory} {i : Nat} (h : ∀ c ∈ m, i < c.1) : m.read i = 0 := by
  induction m with
  | nil => rfl
  | cons c m ih =>
    obtain ⟨j, w⟩ := c
    have := h (j, w) (by simp)
    rw [read_cons, if_neg (by simp at this; omega)]
    exact ih fun c hc => h c (List.mem_cons_of_mem _ hc)

theorem read_of_le_within {m : Memory} {n i : Nat} (h : m.within n = true) (hi : n ≤ i) : m.read i = 0 := by
  rw [within_iff] at h
  induction m with
  | nil => rfl
  | cons c m ih =>
    obtain ⟨j, w⟩ := c
    have := h (j, w) (by simp)
    rw [read_cons, if_neg (by simp at this; omega)]
    exact ih fun c hc => h c (List.mem_cons_of_mem _ hc)

/-- Two arrays in canonical form that read the same everywhere are the same. -/
theorem ext_read {m m' : Memory} (h : m.wf = true) (h' : m'.wf = true) (hr : ∀ i, m.read i = m'.read i) : m = m' := by
  induction m generalizing m' with
  | nil =>
    cases m' with
    | nil => rfl
    | cons c m' =>
      obtain ⟨j, w⟩ := c
      have := hr j
      rw [wf_cons] at h'
      simp [read_cons] at this
      exact absurd this.symm h'.1
  | cons c m ih =>
    obtain ⟨j, w⟩ := c
    rw [wf_cons] at h
    cases m' with
    | nil => have := hr j; simp [read_cons] at this; exact absurd this h.1
    | cons c' m' =>
      obtain ⟨j', w'⟩ := c'
      rw [wf_cons] at h'
      have hj : j = j' := by
        rcases Nat.lt_trichotomy j j' with hlt | heq | hgt
        · have := hr j
          rw [read_cons, if_pos rfl, read_cons, if_neg (by omega),
            read_eq_zero_of_lt fun c hc => Nat.lt_trans hlt (h'.2.1 c hc)] at this
          exact absurd this h.1
        · exact heq
        · have := hr j'
          rw [read_cons, if_neg (by omega), read_cons, if_pos rfl,
            read_eq_zero_of_lt fun c hc => Nat.lt_trans hgt (h.2.1 c hc)] at this
          exact absurd this.symm h'.1
      subst hj
      have hw : w = w' := by have := hr j; simpa [read_cons] using this
      subst hw
      congr 1
      refine ih h.2.2 h'.2.2 fun i => ?_
      by_cases hi : j = i
      · subst hi
        rw [read_eq_zero_of_lt h.2.1, read_eq_zero_of_lt h'.2.1]
      · have := hr i
        simpa [read_cons, hi] using this

end Sys2Proof.Machine.Memory
end

