-- ==== Sys2Proof/Laws/Ops.lean ====
section
/-! SUPPORT. For each shared operation and each meaning, once, everything it can do. -/

namespace Sys2Proof.Machine

/-! ## The address map -/

/-- The unmapped addresses (20_memory.md R61, as 45_host_access.md R220 lists them). -/
theorem placeAt_eq_none_iff (addr : Nat) :
    placeAt addr = none ↔ addr = 0x0FF ∨ (0x202 ≤ addr ∧ addr ≤ 0x2FF) ∨ (0x900 ≤ addr ∧ addr ≤ 0xEFF) ∨ 0xF0C ≤ addr := by
  unfold placeAt
  have hl : registerMap.length = 12 := rfl
  repeat' split
  all_goals simp only [Option.map_eq_none_iff, List.getElem?_eq_none_iff, hl, reduceCtorEq, false_iff, true_iff]
  all_goals omega

/-- The mapped arrays (20_memory.md R61). -/
theorem placeAt_dbuf {addr : Nat} (h : addr ≤ 0x0FE) : placeAt addr = some (.dbuf addr) := by
  unfold placeAt; rw [if_pos (by omega)]

theorem placeAt_fbuf {addr : Nat} (h : 0x100 ≤ addr) (h' : addr ≤ 0x201) : placeAt addr = some (.fbuf (addr - 0x100)) := by
  unfold placeAt; rw [if_neg (by omega), if_neg (by omega), if_pos (by omega)]

/-- The registers (20_memory.md R61). -/
theorem placeAt_register {addr : Nat} (h : 0xF00 ≤ addr) : placeAt addr = registerMap[addr - 0xF00]?.map Place.register := by
  fun_cases placeAt addr
  all_goals first | (exfalso; omega) | rfl

/-! ## Encoder -/

@[simp] theorem Block.encodePayload_gen (s : Block) (k npar : Nat) :
    (s.encodePayload k npar).gen = Memory.ofBytes (generatorPolynomial npar) := rfl

@[simp] theorem Block.encodePayload_par (s : Block) (k npar : Nat) :
    (s.encodePayload k npar).par = Memory.ofBytes (lfsr (generatorPolynomial npar) npar (s.dbuf.bytes 0 k)) := rfl

@[simp] theorem Block.encodePayload_dbuf (s : Block) (k npar : Nat) :
    (s.encodePayload k npar).dbuf =
      s.dbuf.writeBytes k (lfsr (generatorPolynomial npar) npar (s.dbuf.bytes 0 k)).reverse := rfl

/-- `DBUF` after the encoder: the register read from its top in `k` to `k + npar - 1`, the rest as before. -/
theorem Block.encodePayload_read (s : Block) (k npar j : Nat) :
    (s.encodePayload k npar).dbuf.read j =
      if k ≤ j ∧ j < k + npar then
        (lfsr (generatorPolynomial npar) npar (s.dbuf.bytes 0 k)).reverse.getD (j - k) 0 else s.dbuf.read j := by
  simp [Memory.read_writeBytes]

/-! ## Decoder -/

@[simp] theorem Block.computeSyndromes_syn (s : Block) (k npar : Nat) :
    (s.computeSyndromes k npar).syn = Memory.ofBytes (syndromes (s.dbuf.bytes 0 (k + npar)) npar) := rfl

/-- `SYNNZ = 0` exactly when every syndrome is zero (42_rs_decoder.md R142). -/
theorem Block.computeSyndromes_synnz (s : Block) (k npar : Nat) :
    (s.computeSyndromes k npar).synnz = 0 ↔ ∀ j < npar, syndrome (s.dbuf.bytes 0 (k + npar)) j = 0 := by
  have h : (s.computeSyndromes k npar).synnz =
      if (syndromes (s.dbuf.bytes 0 (k + npar)) npar).all (· == 0) then 0 else 1 := rfl
  rw [h]
  split <;> rename_i h1 <;> simp [syndromes] at h1 <;> simp
  · exact h1
  · exact h1

/-- The correction leaves every byte that is at none of the locations. -/
theorem Block.correct_read_other {s : Block} {n j : Nat} {is : List Nat} (es : List Byte)
    (h : ∀ i ∈ is, n - 1 - i ≠ j) : (s.correct n is es).dbuf.read j = s.dbuf.read j := by
  induction is generalizing s es with
  | nil => cases es <;> rfl
  | cons i is ih => cases es with
    | nil => rfl
    | cons e es =>
      rw [Block.correct, ih _ fun i hi => h i (List.mem_cons_of_mem _ hi)]
      have := h i (by simp)
      simp [Memory.writeBytes, this]

/-- The correction keeps the canonical form of `DBUF`. -/
theorem Block.correct_wf {s : Block} (h : s.dbuf.wf = true) (n : Nat) (is : List Nat) (es : List Byte) :
    (s.correct n is es).dbuf.wf = true := by
  induction is generalizing s es with
  | nil => cases es <;> exact h
  | cons i is ih => cases es with
    | nil => exact h
    | cons e es => exact ih (Memory.wf_writeBytes h _ _) es

/-- The correction writes inside the codeword only. -/
theorem Block.correct_within {s : Block} {size n : Nat} (h : s.dbuf.within size = true) (hn : 0 < n) (hs : n ≤ size)
    (is : List Nat) (es : List Byte) : (s.correct n is es).dbuf.within size = true := by
  induction is generalizing s es with
  | nil => cases es <;> exact h
  | cons i is ih => cases es with
    | nil => exact h
    | cons e es => exact ih (Memory.within_writeBytes h (by simp; omega)) es

/-- The three ends of a decode (42_rs_decoder.md R143): accepted unmodified, given up, or repaired. -/
theorem Block.decodeCodeword_cases (s : Block) (k npar : Nat) :
    ((s.computeSyndromes k npar).synnz = 0 ∧
      s.decodeCodeword k npar = ((s.computeSyndromes k npar).setSolver [0x01] [] []).setResult .ok) ∨
    ((s.computeSyndromes k npar).synnz ≠ 0 ∧ ∃ syn lam om locations,
      syn = syndromes (s.dbuf.bytes 0 (k + npar)) npar ∧ lam = errorLocator syn npar ∧
      om = errorEvaluator lam syn npar ∧ locations = errorLocations lam npar ∧
      ((corrections lam om npar (k + npar) locations = none ∧
        s.decodeCodeword k npar =
          ((s.computeSyndromes k npar).setSolver lam om locations).setResult .unrepairable) ∨
       ∃ es, corrections lam om npar (k + npar) locations = some es ∧
        s.decodeCodeword k npar =
          (((s.computeSyndromes k npar).setSolver lam om locations).correct (k + npar) locations es).setResult .ok)) := by
  unfold decodeCodeword
  dsimp only
  split
  · exact .inl ⟨‹_›, rfl⟩
  · refine .inr ⟨‹_›, _, _, _, _, rfl, rfl, rfl, rfl, ?_⟩
    split
    · exact .inl ⟨‹_›, rfl⟩
    · exact .inr ⟨_, ‹_›, rfl⟩

/-! ## Frame codec -/

/-- `RESULT` at the end of a validation, and nothing else changed (43_frame_codec.md R194, R195). -/
theorem Block.validateChecksum_cases (s : Block) (checksum : Bool) (n : Nat) :
    (checksum = true ∧ crc8 (s.dbuf.bytes 0 n) ≠ s.fbuf.read (2 + n) ∧
      s.validateChecksum checksum n = s.setResult .corruptChecksum) ∨
    ((checksum = true → crc8 (s.dbuf.bytes 0 n) = s.fbuf.read (2 + n)) ∧
      s.validateChecksum checksum n = s.setResult .ok) := by
  unfold validateChecksum
  split <;> rename_i h <;> simp at h
  · exact .inl ⟨h.1, h.2, rfl⟩
  · exact .inr ⟨h, rfl⟩

/-- The ends of a parse before the body is copied (43_frame_codec.md R192), or the parse of the body. -/
theorem Block.parseFrame_cases (s : Block) (len : Nat) :
    (len < 2 ∧ s.parseFrame len = (s.setFlen len).setResult .corruptLength) ∨
    (2 ≤ len ∧ ∃ flags k n, flags = s.fbuf.read 0 ∧ k = (s.fbuf.read 1).toNat ∧
      n = bodyLength (fecActive flags) k s.tbudget.toNat ∧
      (((maxCodeword < n ∨ len ≠ frameLength (checksumActive flags) n) ∧
          s.parseFrame len =
            (((s.setFlen len).setRxflags flags).setPlen (s.fbuf.read 1)).setResult .corruptLength) ∨
       (n ≤ maxCodeword ∧ len = frameLength (checksumActive flags) n ∧
          s.parseFrame len =
            (((s.setFlen len).setRxflags flags).setPlen (s.fbuf.read 1)).parseBody
              (checksumActive flags) (fecActive flags) k s.tbudget.toNat))) := by
  unfold parseFrame
  dsimp only
  split
  · exact .inl ⟨‹_›, rfl⟩
  · refine .inr ⟨by omega, _, _, _, rfl, rfl, rfl, ?_⟩
    split
    · exact .inl ⟨.inl ‹_›, rfl⟩
    · split
      · exact .inl ⟨.inr ‹_›, rfl⟩
      · exact .inr ⟨by omega, by simp_all, rfl⟩

/-! ## Tone selector -/

/-- The low three bits are the remainder modulo 8 (44_tone_selector.md R210). -/
theorem toNat_toneIndex (b : Byte) : (toneIndex b).toNat = b.toNat % 8 := by
  rw [toneIndex, BitVec.toNat_and]
  exact Nat.and_two_pow_sub_one_eq_mod b.toNat 3

/-! ## The range checks -/

theorem codewordInRange_iff (k npar : Nat) : codewordInRange k npar = true ↔ npar ≠ 0 ∧ k + npar ≤ 255 := by
  simp [codewordInRange, maxCodeword]

theorem buildInRange_iff (fec : Bool) (k t : Nat) :
    buildInRange fec k t = true ↔ k ≤ 255 ∧ (fec = true → k + 2 * t ≤ 255) := by
  cases fec <;> simp [buildInRange, maxCodeword]

theorem parseInRange_iff (len : Nat) : parseInRange len = true ↔ len ≤ 258 := by simp [parseInRange, maxFrame]

theorem symbolInRange_iff (idx hails flen : Nat) : symbolInRange idx hails flen = true ↔ idx ≤ hails + flen := by
  simp [symbolInRange]

/-! ## Every meaning answers a next state -/

/-- What a command can do: raise one fault, or the effect of its rule, in which `FAULT`, `TBUDGET`, `KHAIL` and the
host's pending moves stay. -/
theorem exec_cases (i : Instr) (s : State) :
    (∃ f, exec i s = .next (s.onBlock (·.raise f))) ∨
    ∃ t, exec i s = .next t ∧ t.fault = s.fault ∧ t.tbudget = s.tbudget ∧ t.khail = s.khail ∧ t.port = s.port := by
  cases i with
  | gfmul a b => exact .inr ⟨_, rfl, rfl, rfl, rfl, rfl⟩
  | gfinv a =>
    simp only [exec, execGfinv]
    split
    · exact .inl ⟨_, rfl⟩
    · exact .inr ⟨_, rfl, rfl, rfl, rfl, rfl⟩
  | wrb addr data =>
    simp only [exec, execWrb]
    split
    · exact .inl ⟨_, rfl⟩
    · split
      · exact .inr ⟨_, rfl, by simp, by simp, by simp, by simp⟩
      · exact .inl ⟨_, rfl⟩
  | rdb addr =>
    simp only [exec, execRdb]
    split
    · exact .inl ⟨_, rfl⟩
    · exact .inr ⟨_, rfl, rfl, rfl, rfl, rfl⟩
  | rsenc k npar =>
    simp only [exec, execRsenc]
    split
    · exact .inr ⟨_, rfl, rfl, rfl, rfl, rfl⟩
    · exact .inl ⟨_, rfl⟩
  | rssyn k npar =>
    simp only [exec, execRssyn]
    split
    · exact .inr ⟨_, rfl, rfl, rfl, rfl, rfl⟩
    · exact .inl ⟨_, rfl⟩
  | rsdec k npar =>
    simp only [exec, execRsdec]
    split
    · exact .inr ⟨_, rfl, by simp, by simp, by simp, by simp⟩
    · exact .inl ⟨_, rfl⟩
  | frbuild k =>
    simp only [exec, execFrbuild]
    split
    · exact .inr ⟨_, rfl, by simp, by simp, by simp, by simp⟩
    · exact .inl ⟨_, rfl⟩
  | frparse len =>
    simp only [exec, execFrparse]
    split
    · exact .inr ⟨_, rfl, by simp, by simp, by simp, by simp⟩
    · exact .inl ⟨_, rfl⟩
  | tone b => exact .inr ⟨_, rfl, rfl, rfl, rfl, rfl⟩
  | lsym idx =>
    simp only [exec, execLsym]
    split
    · exact .inr ⟨_, rfl, by simp, by simp, by simp, by simp⟩
    · exact .inl ⟨_, rfl⟩

/-- What a command word can do (60_exceptions.md R233, R234). -/
theorem execWord_cases (w : Word) (s : State) :
    (s.fault ≠ 0 ∧ execWord w s = .next s) ∨
    (s.fault = 0 ∧ (∃ e, decode w = .error e) ∧ execWord w s = .next (s.onBlock (·.raise .illegalCommand))) ∨
    (s.fault = 0 ∧ ∃ i, decode w = .ok i ∧ execWord w s = exec i s) := by
  unfold execWord
  by_cases h : s.fault = 0
  · rw [if_neg (by simp [Block.stopped, h])]
    cases hd : decode w with
    | error e => exact .inr (.inl ⟨h, ⟨e, rfl⟩, rfl⟩)
    | ok i => exact .inr (.inr ⟨h, i, rfl, rfl⟩)
  · rw [if_pos (by simpa [Block.stopped] using h)]
    exact .inl ⟨h, rfl⟩

/-- What a step can do: nothing with no move pending, else the next move on the state without it. -/
theorem step_cases (s : State) :
    (s.port = [] ∧ step s = .next s) ∨
    (∃ rest, s.port = .reset :: rest ∧ step s = .next ((s.setPort rest).onBlock (·.applyReset))) ∨
    ∃ w rest, s.port = .command w :: rest ∧ step s = execWord w (s.setPort rest) := by
  unfold step stepPort
  cases h : s.port with
  | nil => exact .inl ⟨rfl, rfl⟩
  | cons e rest => cases e with
    | reset => exact .inr (.inl ⟨rest, rfl, rfl⟩)
    | command w => exact .inr (.inr ⟨w, rest, rfl, rfl⟩)

end Sys2Proof.Machine
end

