-- ==== Sys2Proof/Laws/PerInstr.lean ====
section
/-! SUPPORT. Facts stated for every instruction as syntax, one lemma a constructor. -/

namespace Sys2Proof.Laws

/-- The word of an instruction holds its row's opcode and zeros where the row must be zero, and the row reads the
operands back from it when they fit their fields (30_encoding.md R82, R83, R85). -/
def EncodedFields.Statement (i : Instr) : Prop :=
  fieldOp (encode i) = i.opcode.code ∧ i.opcode.zerosHold (encode i) = true ∧
    (i.WellFormed → i.opcode.command (encode i) = i)

namespace EncodedFields

theorem gfmul (a b : Byte) : Statement (.gfmul a b) := by
  simp [Statement, encode, Instr.opcode, Opcode.zerosHold, Opcode.command]

theorem gfinv (a : Byte) : Statement (.gfinv a) := by
  simp [Statement, encode, Instr.opcode, Opcode.zerosHold, Opcode.command]

theorem wrb (addr : Nat) (data : Byte) : Statement (.wrb addr data) := by
  refine ⟨by simp [encode], by simp [encode, Instr.opcode, Opcode.zerosHold], fun h => ?_⟩
  simp only [Instr.WellFormed, Instr.wellFormed] at h
  simp only [encode, Instr.opcode, Opcode.command, fieldH_wordM, fieldF3_wordM, toNat_ofNat_half h]

theorem rdb (addr : Nat) : Statement (.rdb addr) := by
  refine ⟨by simp [encode], by simp [encode, Instr.opcode, Opcode.zerosHold], fun h => ?_⟩
  simp only [Instr.WellFormed, Instr.wellFormed] at h
  simp only [encode, Instr.opcode, Opcode.command, fieldH_wordM, toNat_ofNat_half h]

theorem rsenc (k npar : Nat) : Statement (.rsenc k npar) := by
  refine ⟨by simp [encode], by simp [encode, Instr.opcode, Opcode.zerosHold], fun h => ?_⟩
  simp only [Instr.WellFormed, Instr.wellFormed, Bool.and_eq_true] at h
  simp only [encode, Instr.opcode, Opcode.command, fieldF1_wordR, fieldF2_wordR, toNat_ofNat_byte h.1, toNat_ofNat_byte h.2]

theorem rssyn (k npar : Nat) : Statement (.rssyn k npar) := by
  refine ⟨by simp [encode], by simp [encode, Instr.opcode, Opcode.zerosHold], fun h => ?_⟩
  simp only [Instr.WellFormed, Instr.wellFormed, Bool.and_eq_true] at h
  simp only [encode, Instr.opcode, Opcode.command, fieldF1_wordR, fieldF2_wordR, toNat_ofNat_byte h.1, toNat_ofNat_byte h.2]

theorem rsdec (k npar : Nat) : Statement (.rsdec k npar) := by
  refine ⟨by simp [encode], by simp [encode, Instr.opcode, Opcode.zerosHold], fun h => ?_⟩
  simp only [Instr.WellFormed, Instr.wellFormed, Bool.and_eq_true] at h
  simp only [encode, Instr.opcode, Opcode.command, fieldF1_wordR, fieldF2_wordR, toNat_ofNat_byte h.1, toNat_ofNat_byte h.2]

theorem frbuild (k : Nat) : Statement (.frbuild k) := by
  refine ⟨by simp [encode], by simp [encode, Instr.opcode, Opcode.zerosHold], fun h => ?_⟩
  simp only [Instr.WellFormed, Instr.wellFormed] at h
  simp only [encode, Instr.opcode, Opcode.command, fieldF1_wordR, toNat_ofNat_byte h]

theorem frparse (len : Nat) : Statement (.frparse len) := by
  refine ⟨by simp [encode], by simp [encode, Instr.opcode, Opcode.zerosHold], fun h => ?_⟩
  simp only [Instr.WellFormed, Instr.wellFormed] at h
  simp only [encode, Instr.opcode, Opcode.command, fieldH_wordM, toNat_ofNat_half h]

theorem tone (b : Byte) : Statement (.tone b) := by
  simp [Statement, encode, Instr.opcode, Opcode.zerosHold, Opcode.command]

theorem lsym (idx : Nat) : Statement (.lsym idx) := by
  refine ⟨by simp [encode], by simp [encode, Instr.opcode, Opcode.zerosHold], fun h => ?_⟩
  simp only [Instr.WellFormed, Instr.wellFormed] at h
  simp only [encode, Instr.opcode, Opcode.command, fieldH_wordM, toNat_ofNat_half h]

end EncodedFields

end Sys2Proof.Laws
end

