-- ==== Sys2Proof/Tests/Slice0.lean ====
section
/-! SUPPORT. Tests: well-formedness, decoding of words written out, small runs of one command from 95_test_vectors.md,
and for each statement with hypotheses a state and operands that meet them all. -/

namespace Sys2Proof.Tests

open Sys2Proof.Machine

/-! ## Well-formedness: an operand one past its field (30_encoding.md R85, R87), and the last one in it -/

theorem test_wellFormed_wrb_address : Instr.wellFormed (.wrb 65536 0) = false ∧ Instr.wellFormed (.wrb 65535 0) = true := by decide
theorem test_wellFormed_rdb_address : Instr.wellFormed (.rdb 65536) = false ∧ Instr.wellFormed (.rdb 65535) = true := by decide
theorem test_wellFormed_rsenc_payload : Instr.wellFormed (.rsenc 256 4) = false ∧ Instr.wellFormed (.rsenc 255 4) = true := by decide
theorem test_wellFormed_rsenc_parity : Instr.wellFormed (.rsenc 3 256) = false ∧ Instr.wellFormed (.rsenc 3 255) = true := by decide
theorem test_wellFormed_rssyn_payload : Instr.wellFormed (.rssyn 256 4) = false ∧ Instr.wellFormed (.rssyn 255 4) = true := by decide
theorem test_wellFormed_rssyn_parity : Instr.wellFormed (.rssyn 3 256) = false ∧ Instr.wellFormed (.rssyn 3 255) = true := by decide
theorem test_wellFormed_rsdec_payload : Instr.wellFormed (.rsdec 256 4) = false ∧ Instr.wellFormed (.rsdec 255 4) = true := by decide
theorem test_wellFormed_rsdec_parity : Instr.wellFormed (.rsdec 3 256) = false ∧ Instr.wellFormed (.rsdec 3 255) = true := by decide
theorem test_wellFormed_frbuild : Instr.wellFormed (.frbuild 256) = false ∧ Instr.wellFormed (.frbuild 255) = true := by decide
theorem test_wellFormed_frparse : Instr.wellFormed (.frparse 65536) = false ∧ Instr.wellFormed (.frparse 65535) = true := by decide
theorem test_wellFormed_lsym : Instr.wellFormed (.lsym 65536) = false ∧ Instr.wellFormed (.lsym 65535) = true := by decide
theorem test_wellFormed_bytes :
    Instr.wellFormed (.gfmul 255 255) = true ∧ Instr.wellFormed (.gfinv 255) = true ∧ Instr.wellFormed (.tone 255) = true := by decide

/-! ## Decoding: words written out by hand, as `op ++ f1 ++ f2 ++ f3` from 30_encoding.md R80 and R82 -/

theorem test_decode_gfmul : decode (0b00000001#8 ++ 0b01010011#8 ++ 0b11001010#8 ++ 0b00000000#8) = .ok (.gfmul 0x53 0xCA) := by rfl
theorem test_decode_gfinv : decode (0b00000010#8 ++ 0b01010011#8 ++ 0b00000000#8 ++ 0b00000000#8) = .ok (.gfinv 0x53) := by rfl
theorem test_decode_wrb : decode (0b00010000#8 ++ 0b00001111#8 ++ 0b00001000#8 ++ 0b00000010#8) = .ok (.wrb 0xF08 0x02) := by rfl
theorem test_decode_rdb : decode (0b00010001#8 ++ 0b00001111#8 ++ 0b00001001#8 ++ 0b00000000#8) = .ok (.rdb 0xF09) := by rfl
theorem test_decode_rsenc : decode (0b00100000#8 ++ 0b00000011#8 ++ 0b00000100#8 ++ 0b00000000#8) = .ok (.rsenc 3 4) := by rfl
theorem test_decode_rssyn : decode (0b00100001#8 ++ 0b00000011#8 ++ 0b00000100#8 ++ 0b00000000#8) = .ok (.rssyn 3 4) := by rfl
theorem test_decode_rsdec : decode (0b00100010#8 ++ 0b11001000#8 ++ 0b00111000#8 ++ 0b00000000#8) = .ok (.rsdec 200 56) := by rfl
theorem test_decode_frbuild : decode (0b00110000#8 ++ 0b11111011#8 ++ 0b00000000#8 ++ 0b00000000#8) = .ok (.frbuild 251) := by rfl
theorem test_decode_frparse : decode (0b00110001#8 ++ 0b00000001#8 ++ 0b00000010#8 ++ 0b00000000#8) = .ok (.frparse 258) := by rfl
theorem test_decode_tone : decode (0b01000000#8 ++ 0b01010011#8 ++ 0b00000000#8 ++ 0b00000000#8) = .ok (.tone 0x53) := by rfl
theorem test_decode_lsym : decode (0b01000001#8 ++ 0b00000001#8 ++ 0b00000010#8 ++ 0b00000000#8) = .ok (.lsym 258) := by rfl

/-- Illegal words (V-HA-5, V-GF-4, V-HA-4, V-FR-3, V-TN-1). -/
theorem test_decode_illegal :
    decode 0x00000000 = .error (.reservedOpcode 0x00) ∧ decode 0xFFFFFFFF = .error (.reservedOpcode 0xFF) ∧
    decode 0x03000000 = .error (.reservedOpcode 0x03) ∧ decode 0x02000100 = .error (.mustBeZero .gfinv) ∧
    decode 0x01000001 = .error (.mustBeZero .gfmul) ∧ decode 0x11FFFF01 = .error (.mustBeZero .rdb) ∧
    decode 0x30000100 = .error (.mustBeZero .frbuild) ∧ decode 0x40000100 = .error (.mustBeZero .tone) :=
  ⟨rfl, rfl, rfl, rfl, rfl, rfl, rfl, rfl⟩

/-- A command as the assembler writes it (30_encoding.md R87, R88). -/
theorem test_assembly : Instr.assembly (.rsenc 3 4) = "RSENC 3, 4" ∧ Instr.setcfg 2 = .wrb 0xF08 0x02 := ⟨by decide +kernel, rfl⟩

/-! ## The states the tests run on: the parameters of 95_test_vectors.md, `T_ERR = 2` and `K_HAIL = 3` -/

/-- The reset state with the parameters of the vectors. -/
def start : State := { State.reset with tbudget := 2, khail := 3 }

/-- `start` with bytes in `DBUF`. -/
def withData (bs : List Byte) : State := { start with dbuf := Memory.ofBytes bs }

/-- `start` with bytes in `FBUF`. -/
def withFrame (bs : List Byte) : State := { start with fbuf := Memory.ofBytes bs }

/-- The state after a command. -/
def after (i : Instr) (s : State) : State :=
  match exec i s with
  | .next t => t
  | _ => s

/-- The payload "SOS". -/
def sos : State := withData [0x53, 0x4F, 0x53]

/-- The codeword of "SOS" with four parity bytes, one byte damaged (V-DEC-2, second row). -/
def damaged : State := withData [0xAC, 0x4F, 0x53, 0x45, 0x28, 0x54, 0x2F]

/-- "SOS" with three bytes damaged, more than four parity bytes repair (V-DEC-3, first row). -/
def hopeless : State := withData [0x52, 0x4E, 0x51, 0x45, 0x28, 0x54, 0x2F]

/-- "SOS" with the checksum on. -/
def sosChecked : State := { sos with cfg := 2 }

/-- "SOS" with FEC on. -/
def sosCoded : State := { sos with cfg := 4 }

/-- The frame of "SOS" with its checksum (V-SRC-1). -/
def sosFrame : State := { withFrame [0xFD, 0x03, 0x53, 0x4F, 0x53, 0xBF] with flen := 6 }

/-- The frame of "SOS" with checksum and FEC (V-FR-1). -/
def sosCodedFrame : State := withFrame [0xF9, 0x03, 0x53, 0x4F, 0x53, 0x45, 0x28, 0x54, 0x2F, 0x18]

/-! ## The field and the checksum -/

/-- V-GF-1. -/
theorem test_powers : apow 8 = 0x1D ∧ apow 254 = 0x8E ∧ apow 255 = 1 := by decide

/-- V-FR-2. -/
theorem test_crc8 :
    crc8 [] = 0x00 ∧ crc8 [0xFF] = 0xF3 ∧ crc8 [0x01, 0x02] = 0x1B ∧
    crc8 [0x31, 0x32, 0x33, 0x34, 0x35, 0x36, 0x37, 0x38, 0x39] = 0xF4 := by decide +kernel

/-! ## One command each -/

/-- V-GF-2. -/
theorem test_gfmul : (after (.gfmul 0x53 0xCA) start).res = 0x8F ∧ (after (.gfmul 0x53 0x00) start).res = 0x00 := by decide +kernel

/-- V-GF-3, V-GF-4. -/
theorem test_gfinv : (after (.gfinv 0x53) start).res = 0x8C ∧ (after (.gfinv 0x00) start).fault = 5 := by decide +kernel

/-- V-HA-1, V-HA-2. -/
theorem test_wrb :
    (after (.wrb 0x0FE 0x01) start).dbuf = [(0xFE, 0x01)] ∧ (after (.wrb 0x201 0x01) start).fbuf = [(0x101, 0x01)] ∧
    (after (.wrb 0xF08 0xFF) start).cfg = 7 := by decide +kernel

/-- V-HA-1, V-HA-4. -/
theorem test_wrb_faults :
    (after (.wrb 0x0FF 0x01) start).fault = 2 ∧ (after (.wrb 0x202 0x00) start).fault = 2 ∧
    (after (.wrb 0x300 0x00) start).fault = 3 ∧ (after (.wrb 0xF09 0x01) start).fault = 3 := by decide +kernel

/-- V-HA-3; `FLEN` in two pieces (V-FR-3: a frame of 258 bytes reads back as 02 and 01). -/
theorem test_rdb :
    (after (.rdb 0xF09) start).res = 0xFF ∧ (after (.rdb 0xF0A) start).res = 0x02 ∧
    (after (.rdb 0xF05) { start with flen := 258 }).res = 0x02 ∧
    (after (.rdb 0xF06) { start with flen := 258 }).res = 0x01 ∧ (after (.rdb 0xF0C) start).fault = 2 := by decide +kernel

/-- V-ENC-1, V-ENC-2. -/
theorem test_rsenc :
    (after (.rsenc 3 4) sos).dbuf.bytes 0 7 = [0x53, 0x4F, 0x53, 0x45, 0x28, 0x54, 0x2F] ∧
    (after (.rsenc 3 4) sos).par.bytes 0 4 = [0x2F, 0x54, 0x28, 0x45] ∧
    (after (.rsenc 3 4) sos).gen.bytes 0 6 = [0x74, 0xE7, 0xD8, 0x1E, 0x01, 0x00] := by decide +kernel

/-- V-ENC-5. -/
theorem test_rsenc_faults : (after (.rsenc 3 0) start).fault = 4 ∧ (after (.rsenc 255 1) start).fault = 4 := by decide +kernel

/-- V-DEC-1. -/
theorem test_rssyn :
    (after (.rssyn 3 4) damaged).syn.bytes 0 5 = [0x31, 0xDC, 0x19, 0x0E, 0x00] ∧
    (after (.rssyn 3 4) damaged).synnz = 1 := by decide +kernel

/-- V-DEC-2, second row. -/
theorem test_rsdec_repairs :
    (after (.rsdec 3 4) damaged).dbuf.bytes 0 7 = [0x53, 0x4F, 0x53, 0x45, 0x28, 0x54, 0x2F] ∧
    (after (.rsdec 3 4) damaged).lambda.bytes 0 3 = [0x01, 0x40, 0x00] ∧
    (after (.rsdec 3 4) damaged).omega.bytes 0 2 = [0x31, 0x00] ∧
    (after (.rsdec 3 4) damaged).errloc.read 0 = 6 ∧ (after (.rsdec 3 4) damaged).nerr = 1 ∧
    (after (.rsdec 3 4) damaged).result = 0 := by decide +kernel

/-- V-DEC-3, first row. -/
theorem test_rsdec_gives_up :
    (after (.rsdec 3 4) hopeless).result = 2 ∧ (after (.rsdec 3 4) hopeless).nerr = 0 ∧
    (after (.rsdec 3 4) hopeless).lambda.bytes 0 3 = [0x01, 0xF0, 0xC9] ∧
    (after (.rsdec 3 4) hopeless).dbuf = hopeless.dbuf := by decide +kernel

/-- V-FR-1, third and fifth row. -/
theorem test_frbuild :
    (after (.frbuild 3) sosChecked).fbuf.bytes 0 6 = [0xFD, 0x03, 0x53, 0x4F, 0x53, 0xBF] ∧
    (after (.frbuild 3) sosChecked).flen = 6 ∧
    (after (.frbuild 3) sosCoded).fbuf.bytes 0 9 = [0xFB, 0x03, 0x53, 0x4F, 0x53, 0x45, 0x28, 0x54, 0x2F] := by decide +kernel

/-- V-FR-3. -/
theorem test_frbuild_too_long : (after (.frbuild 252) sosCoded).fault = 4 := by decide +kernel

/-- V-FR-4: the scenario's way back, and a parse with a repair. -/
theorem test_frparse :
    (after (.frparse 6) sosFrame).dbuf = sos.dbuf ∧ (after (.frparse 6) sosFrame).plen = 3 ∧
    (after (.frparse 10) (withFrame [0xF9, 0x03, 0xAC, 0x4F, 0x53, 0x44, 0x28, 0x54, 0x2F, 0x18])).nerr = 2 ∧
    (after (.frparse 10) (withFrame [0xF9, 0x03, 0xAC, 0x4F, 0x53, 0x44, 0x28, 0x54, 0x2F, 0x18])).result = 0 := by decide +kernel

/-- V-FR-4: a damaged checksum, a wrong length, an unrepairable body, a frame too long for the buffer. -/
theorem test_frparse_errors :
    (after (.frparse 6) (withFrame [0xFD, 0x03, 0x53, 0x4F, 0x53, 0xBE])).result = 1 ∧
    (after (.frparse 6) (withFrame [0xFD, 0x02, 0x53, 0x4F, 0x53, 0xBF])).result = 3 ∧
    (after (.frparse 10) (withFrame [0xF9, 0x03, 0x52, 0x4E, 0x52, 0x45, 0x28, 0x54, 0x2F, 0x18])).result = 2 ∧
    (after (.frparse 259) start).fault = 4 := by decide +kernel

/-- V-TN-1. -/
theorem test_tone :
    (after (.tone 0x53) start).res = 3 ∧ (after (.tone 0xB6) start).res = 6 ∧ (after (.tone 0x08) start).resk = 1 := by decide +kernel

/-- V-TN-3. -/
theorem test_lsym :
    (after (.lsym 2) sosFrame).resk = 0 ∧ (after (.lsym 3) sosFrame).res = 5 ∧ (after (.lsym 8) sosFrame).res = 7 ∧
    (after (.lsym 9) sosFrame).resk = 2 ∧ (after (.lsym 10) sosFrame).fault = 4 := by decide +kernel

/-- A word placed by `withFetchWord` is the one the next step runs (V-TN-1). -/
theorem test_step_runs_the_word : step (start.withFetchWord 32 0x40530000) = .next { start with res := 3, resk := 1 } := by rfl

/-! ## Witnesses: for each statement with hypotheses, a state and operands that meet them -/

/-- The moves of the witnesses: a command word, then reset. -/
def waiting (w : Word) : State := { sos with port := [.command w, .reset] }

/-- A block stopped by a fault, a command waiting. -/
def halted : State := { waiting 0x0153CA00 with fault := 4, res := 7 }

theorem witness_DecodeMatchesTheTable :
    decode 0x41FFFF00#32 = .ok (.lsym 65535) ∧ Instr.opcode (.lsym 65535) = .lsym ∧
    0x41FFFF00#32 &&& Opcode.mask .lsym = Opcode.pattern .lsym := ⟨rfl, rfl, rfl⟩

theorem witness_DecodeOfEncode : Instr.WellFormed (.wrb 65535 255) ∧ Instr.WellFormed (.rsdec 0 255) := by decide

theorem witness_EncodeOfDecode : decode 0x10FFFFFF#32 = .ok (.wrb 0xFFFF 0xFF) := rfl

theorem witness_MustBeZeroFieldIsIllegal :
    sos.fault = 0 ∧ fieldOp 0x02000100 = Opcode.code .gfinv ∧
    (0x02000100 : Word) &&& (Opcode.mask .gfinv &&& 0x00FFFFFF#32) ≠ 0 := ⟨rfl, rfl, by decide⟩

theorem witness_ReservedOpcodesAreIllegal :
    sos.fault = 0 ∧ (fieldOp 0x42000000).toNat = 0x42 ∧ (fieldOp 0x00000000).toNat = 0x00 ∧ (fieldOp 0x0F000000).toNat = 0x0F ∧
    (fieldOp 0x12000000).toNat = 0x12 ∧ (fieldOp 0x23000000).toNat = 0x23 ∧ (fieldOp 0x3F000000).toNat = 0x3F :=
  ⟨rfl, rfl, rfl, rfl, rfl, rfl, rfl⟩

theorem witness_StepRunsTheDecodedCommand :
    (waiting 0x0153CA00).port = .command 0x0153CA00 :: [.reset] ∧ (waiting 0x0153CA00).fault = 0 ∧
    decode 0x0153CA00 = .ok (.gfmul 0x53 0xCA) ∧ sos.fault = 0 ∧ sos.port = [] := ⟨rfl, rfl, rfl, rfl, rfl⟩

theorem witness_FaultedBlockIgnoresCommands : halted.fault ≠ 0 := by decide

theorem witness_CommandsIgnoreThePendingMoves : ∃ t, exec (.wrb 0x0FE 0x01) (waiting 0x0153CA00) = .next t := ⟨_, rfl⟩

/-- A stopped block with reset as the next move. -/
theorem witness_OnlyResetClearsFault :
    step { halted with port := [.reset] } = .next ((halted.setPort []).onBlock (·.applyReset)) ∧ halted.fault ≠ 0 ∧
    ((halted.setPort []).onBlock (·.applyReset)).fault ≠ halted.fault := ⟨rfl, by decide, by decide⟩

/-- `GFINV 0`, and a word that does not decode. -/
theorem witness_FaultEntryWritesOnlyFault :
    sos.fault = 0 ∧ execWord 0x02000000 sos = .next (sos.onBlock (·.raise .inverseOfZero)) ∧ (sos.onBlock (·.raise .inverseOfZero)).fault ≠ 0 ∧
    execWord 0x00000000 sos = .next (sos.onBlock (·.raise .illegalCommand)) ∧ (sos.onBlock (·.raise .illegalCommand)).fault ≠ 0 :=
  ⟨rfl, rfl, by decide, rfl, by decide⟩

/-- The rows of the table that read the state, on both sides of their bounds; its addresses are in `witness_addresses`. -/
theorem witness_FaultTable :
    Instr.WellFormed (.lsym 10) ∧ sosFrame.fault = 0 ∧ sosFrame.khail.toNat + sosFrame.flen.toNat < 10 ∧
    ¬ sosFrame.khail.toNat + sosFrame.flen.toNat < 9 ∧ sosCoded.cfg.getLsbD 2 = true ∧
    255 < 252 + 2 * sosCoded.tbudget.toNat ∧ ¬ 255 < 251 + 2 * sosCoded.tbudget.toNat := by decide +kernel

/-- The ends of the unmapped ranges, for every statement about addresses. -/
theorem witness_addresses :
    UnmappedAddress 0x0FF ∧ UnmappedAddress 0x202 ∧ UnmappedAddress 0x2FF ∧ UnmappedAddress 0x900 ∧ UnmappedAddress 0xEFF ∧
    UnmappedAddress 0xF0C ∧ UnmappedAddress 0xFFFF := by decide

/-- The ends of the read-only ranges, and of the unmapped ones as above. -/
theorem witness_WrbRefusesTheRest :
    ReadOnlyAddress 0x300 ∧ ReadOnlyAddress 0x8FF ∧ ReadOnlyAddress 0xF00 ∧ ReadOnlyAddress 0xF07 ∧ ReadOnlyAddress 0xF09 ∧
    ReadOnlyAddress 0xF0B ∧ UnmappedAddress 0x0FF ∧ UnmappedAddress 0xF0C := by decide

theorem witness_RdbReadsTheMap : 254 < 255 ∧ 257 < 258 ∧ 255 < 256 ∧ UnmappedAddress 0x0FF ∧ UnmappedAddress 0xFFFF := by decide

theorem witness_TablesFollowTheRecurrence : 253 < 254 ∧ (0x01 : Byte) ≠ 0 ∧ 0 < 255 ∧ apow 0 = 0x01 := by decide

/-- No address is both, so that no address stands under two clauses. -/
theorem witness_addresses_apart (addr : Nat) : ¬ (UnmappedAddress addr ∧ ReadOnlyAddress addr) := by
  unfold UnmappedAddress ReadOnlyAddress; omega

theorem witness_CodewordOutOfRangeFaults : ((0 : Nat) = 0 ∨ 255 < 3 + 0) ∧ ((1 : Nat) = 0 ∨ 255 < 255 + 1) := by decide

theorem witness_ResetEventGivesResetState : ({ halted with port := [.reset] } : State).port = .reset :: [] := rfl

theorem witness_ReadsAfterReset :
    ¬ UnmappedAddress 0 ∧ ¬ UnmappedAddress 0x0FE ∧ ¬ UnmappedAddress 0x201 ∧ ¬ UnmappedAddress 0x8FF ∧ ¬ UnmappedAddress 0xF0B := by
  decide

/-- A step from a legal state. -/
theorem witness_StepKeepsLegal :
    Block.Legal { Block.reset with fbuf := [(257, 1)], cfg := 5, fault := 3 } ∧
    ∃ t, step { State.reset with fbuf := [(257, 1)], cfg := 5, fault := 3, port := [.command 0x40530000] } = .next t := by
  refine ⟨?_, _, rfl⟩
  constructor <;> first | decide | rfl | simp [Block.reset]

theorem witness_GfinvGivesTheUniqueInverse : (0x01 : Byte) ≠ 0 ∧ (0xFF : Byte) ≠ 0 ∧ 0 < 255 ∧ apow 0 = 0x01 := by decide

theorem witness_InverseOfZeroFaults : damaged.fault = 0 ∧ ∃ t, exec (.rsdec 3 4) damaged = .next t := ⟨rfl, _, rfl⟩

theorem witness_OutputsSteerNothing : ∃ t, exec (.rdb 0xF00) sos = .next t := ⟨_, rfl⟩

theorem witness_WrbWritesOneByte : 0x0FE ≤ 0x0FE ∧ 0x101 ≤ 0x101 := by decide

theorem witness_WriteThenReadBack :
    ¬ UnmappedAddress 0xF08 ∧ ¬ ReadOnlyAddress 0xF08 ∧ (∃ t, exec (.wrb 0xF08 0xFF) sos = .next t) ∧
    ¬ UnmappedAddress 0x0FE ∧ ¬ ReadOnlyAddress 0x0FE ∧ ∃ t, exec (.wrb 0x0FE 0xFF) sos = .next t :=
  ⟨by decide, by decide, ⟨_, rfl⟩, by decide, by decide, ⟨_, rfl⟩⟩

theorem witness_AccessesAreIdempotent :
    ¬ UnmappedAddress 0x201 ∧ ¬ ReadOnlyAddress 0x201 ∧ (∃ t, exec (.rdb 0x201) sos = .next t) ∧
    (∃ t, exec (.wrb 0x201 0xFF) sos = .next t) ∧ (0x200 : Nat) ≠ 0x201 ∧ (∃ u, exec (.rdb 0x200) sos = .next u) ∧
    ∃ v, exec (.rdb 0x200) (after (.wrb 0x201 0xFF) sos) = .next v :=
  ⟨by decide, by decide, ⟨_, rfl⟩, ⟨_, rfl⟩, by decide, ⟨_, rfl⟩, ⟨_, rfl⟩⟩

/-- The operands at the ends of their range (V-ENC-5), for each of the three coding commands. -/
theorem witness_RsencAppendsTheParity :
    ((255 : Nat) ≠ 0 ∧ 0 + 255 ≤ 255) ∧ ((1 : Nat) ≠ 0 ∧ 254 + 1 ≤ 255) ∧ ((4 : Nat) ≠ 0 ∧ 3 + 4 ≤ 255) := by decide

theorem witness_RssynComputesTheSyndromes : ((255 : Nat) ≠ 0 ∧ 0 + 255 ≤ 255) ∧ ((1 : Nat) ≠ 0 ∧ 254 + 1 ≤ 255) := by decide

/-- The operands, and a state for each of the three ways `RSDEC` ends. -/
theorem witness_RsdecOutcomes :
    (4 : Nat) ≠ 0 ∧ 3 + 4 ≤ 255 ∧ (after (.rsdec 3 4) (after (.rsenc 3 4) sos)).synnz = 0 ∧
    (after (.rsdec 3 4) hopeless).result = 2 ∧ (after (.rsdec 3 4) damaged).result = 0 ∧
    ∃ u, exec (.rssyn 3 4) damaged = .next u :=
  ⟨by decide, by decide, by decide +kernel, by decide +kernel, by decide +kernel, _, rfl⟩

/-- An iteration that ends with `L = 1`, which leaves the indices 1 to 3; and a decode of a word beyond repair. -/
theorem witness_SolverFitsTheSyndromes :
    (solverAfter [0x31, 0xDC, 0x19, 0x0E] 4).len = 1 ∧ (solverAfter [0x31, 0xDC, 0x19, 0x0E] 4).len ≤ 3 ∧ 3 < 4 ∧
    (4 : Nat) ≠ 0 ∧ 3 + 4 ≤ 255 ∧ exec (.rsdec 3 4) hopeless = .next (after (.rsdec 3 4) hopeless) ∧
    (after (.rsdec 3 4) hopeless).synnz = 1 :=
  ⟨by decide +kernel, by decide +kernel, by decide, by decide, by decide, rfl, by decide +kernel⟩

/-- `RSENC` and `RSENC` with one parity byte more. -/
theorem witness_GeneratorPolynomialHasItsRoots :
    (4 : Nat) ≠ 0 ∧ 3 + (4 + 1) ≤ 255 ∧ exec (.rsenc 3 4) sos = .next (after (.rsenc 3 4) sos) ∧
    exec (.rsenc 3 (4 + 1)) sos = .next (after (.rsenc 3 5) sos) := ⟨by decide, by decide, rfl, rfl⟩

theorem witness_EncodedWordHasZeroSyndromes :
    (4 : Nat) ≠ 0 ∧ 3 + 4 ≤ 255 ∧ exec (.rsenc 3 4) sos = .next (after (.rsenc 3 4) sos) ∧
    ∃ u, exec (.rssyn 3 4) (after (.rsenc 3 4) sos) = .next u := ⟨by decide, by decide, rfl, _, rfl⟩

/-- Two payloads and their exclusive-or. -/
theorem witness_EncoderIsLinear :
    (4 : Nat) ≠ 0 ∧ 2 + 4 ≤ 255 ∧
    (∀ i, i < 2 → (withData [0x50, 0x02]).dbuf.read i = (withData [0x53, 0x4F]).dbuf.read i ^^^ (withData [0x03, 0x4D]).dbuf.read i) ∧
    (∃ t, exec (.rsenc 2 4) (withData [0x53, 0x4F]) = .next t) ∧ (∃ t, exec (.rsenc 2 4) (withData [0x03, 0x4D]) = .next t) ∧
    ∃ t, exec (.rsenc 2 4) (withData [0x50, 0x02]) = .next t :=
  ⟨by decide, by decide, by decide +kernel, ⟨_, rfl⟩, ⟨_, rfl⟩, ⟨_, rfl⟩⟩

theorem witness_RsencTwiceIsOnce :
    sos.dbuf.wf = true ∧ (4 : Nat) ≠ 0 ∧ 3 + 4 ≤ 255 ∧ ∃ t, exec (.rsenc 3 4) sos = .next t :=
  ⟨by decide +kernel, by decide, by decide, _, rfl⟩

/-- A word that a repair mends: a nonzero syndrome, one root. -/
theorem witness_EvaluatorAndRootSearch :
    (4 : Nat) ≠ 0 ∧ 3 + 4 ≤ 255 ∧ exec (.rsdec 3 4) damaged = .next (after (.rsdec 3 4) damaged) ∧
    (after (.rsdec 3 4) damaged).synnz = 1 ∧ (after (.rsdec 3 4) damaged).nerr.toNat = 1 :=
  ⟨by decide, by decide, rfl, by decide +kernel, by decide +kernel⟩

theorem witness_RootsBoundedByParity : (4 : Nat) ≠ 0 ∧ 3 + 4 ≤ 255 ∧ ∃ t, exec (.rsdec 3 4) damaged = .next t :=
  ⟨by decide, by decide, _, rfl⟩

/-- Both ends of the decode with a nonzero syndrome: no root, and one root at a location in the codeword whose
derivative, the coefficient `LAMBDA[1]` alone, is not zero. -/
theorem witness_RepairIsAllOrNothing :
    (4 : Nat) ≠ 0 ∧ 3 + 4 ≤ 255 ∧ exec (.rsdec 3 4) hopeless = .next (after (.rsdec 3 4) hopeless) ∧
    (after (.rsdec 3 4) hopeless).synnz = 1 ∧ (after (.rsdec 3 4) hopeless).nerr = 0 ∧
    exec (.rsdec 3 4) damaged = .next (after (.rsdec 3 4) damaged) ∧ (after (.rsdec 3 4) damaged).synnz = 1 ∧
    (after (.rsdec 3 4) damaged).nerr = 1 ∧ ((after (.rsdec 3 4) damaged).errloc.read 0).toNat < 3 + 4 ∧
    magnitudeDenominator ((after (.rsdec 3 4) damaged).lambda.bytes 0 5) 4 6 ≠ 0 :=
  ⟨by decide, by decide, rfl, by decide +kernel, by decide +kernel, rfl, by decide +kernel, by decide +kernel,
    by decide +kernel, by decide +kernel⟩

theorem witness_CleanCodewordIsAccepted :
    (4 : Nat) ≠ 0 ∧ 3 + 4 ≤ 255 ∧ exec (.rsenc 3 4) sos = .next (after (.rsenc 3 4) sos) ∧
    ∃ u, exec (.rsdec 3 4) (after (.rsenc 3 4) sos) = .next u := ⟨by decide, by decide, rfl, _, rfl⟩

/-- The last byte of the codeword damaged. -/
theorem witness_OneByteErrorIsRepaired :
    2 ≤ 4 ∧ 3 + 4 ≤ 255 ∧ 6 < 3 + 4 ∧ exec (.rsenc 3 4) sos = .next (after (.rsenc 3 4) sos) ∧
    exec (.wrb 6 0xAF) (after (.rsenc 3 4) sos) = .next (after (.wrb 6 0xAF) (after (.rsenc 3 4) sos)) ∧
    (∃ u, exec (.rsdec 3 4) (after (.wrb 6 0xAF) (after (.rsenc 3 4) sos)) = .next u) ∧
    (0xAF : Byte) ≠ (after (.rsenc 3 4) sos).dbuf.read 6 :=
  ⟨by decide, by decide, by decide, rfl, rfl, ⟨_, rfl⟩, by decide +kernel⟩

/-- Two damaged bytes with four parity bytes, the whole budget (V-DEC-2, third row). -/
theorem witness_RepairsUpToTheBudget :
    (4 : Nat) ≠ 0 ∧ 3 + 4 ≤ 255 ∧ exec (.rsenc 3 4) sos = .next (after (.rsenc 3 4) sos) ∧
    ((List.range (3 + 4)).filter fun i =>
      Memory.read (Memory.ofBytes [0xAC, 0x4F, 0x53, 0x45, 0x28, 0x55, 0x2F]) i ≠ (after (.rsenc 3 4) sos).dbuf.read i).length = 4 / 2 ∧
    ∃ u, exec (.rsdec 3 4) { after (.rsenc 3 4) sos with dbuf := Memory.ofBytes [0xAC, 0x4F, 0x53, 0x45, 0x28, 0x55, 0x2F] } = .next u :=
  ⟨by decide, by decide, rfl, by decide +kernel, _, rfl⟩

/-- Four damaged bytes with four parity bytes, the most that must be noticed. -/
theorem witness_DamageIsDetected :
    (4 : Nat) ≠ 0 ∧ 3 + 4 ≤ 255 ∧ exec (.rsenc 3 4) sos = .next (after (.rsenc 3 4) sos) ∧
    ((List.range (3 + 4)).filter fun i =>
      Memory.read (Memory.ofBytes [0x01, 0x02, 0x03, 0x04, 0x28, 0x54, 0x2F]) i ≠ (after (.rsenc 3 4) sos).dbuf.read i).length = 4 ∧
    ∃ u, exec (.rssyn 3 4) { after (.rsenc 3 4) sos with dbuf := Memory.ofBytes [0x01, 0x02, 0x03, 0x04, 0x28, 0x54, 0x2F] } = .next u :=
  ⟨by decide, by decide, rfl, by decide +kernel, _, rfl⟩

/-- The frame of "SOS" with FEC, two body bytes damaged (V-FR-4). -/
theorem witness_FecFrameIsRepaired :
    sosCoded.cfg.getLsbD 2 = true ∧ sosCoded.tbudget.toNat ≠ 0 ∧ 3 + 2 * sosCoded.tbudget.toNat ≤ 255 ∧
    exec (.frbuild 3) sosCoded = .next (after (.frbuild 3) sosCoded) ∧
    ((List.range (3 + 2 * sosCoded.tbudget.toNat)).filter fun i =>
      (((after (.frbuild 3) sosCoded).fbuf.write 2 0xAC).write 5 0x44).read (2 + i) ≠
        (after (.frbuild 3) sosCoded).fbuf.read (2 + i)).length = 2 ∧
    (∀ i, i < 2 ∨ 2 + (3 + 2 * sosCoded.tbudget.toNat) ≤ i →
      (((after (.frbuild 3) sosCoded).fbuf.write 2 0xAC).write 5 0x44).read i = (after (.frbuild 3) sosCoded).fbuf.read i) ∧
    ∃ u, exec (.frparse (after (.frbuild 3) sosCoded).flen.toNat)
      { after (.frbuild 3) sosCoded with
        fbuf := ((after (.frbuild 3) sosCoded).fbuf.write 2 0xAC).write 5 0x44, dbuf := [(1, 0xFF)] } = .next u := by
  refine ⟨by decide +kernel, by decide +kernel, by decide +kernel, rfl, by decide +kernel, fun i hi => ?_, ?_⟩
  · rw [show sosCoded.tbudget.toNat = 2 from rfl] at hi
    rw [Memory.read_write_other _ _ (by omega), Memory.read_write_other _ _ (by omega)]
  · rw [show (after (.frbuild 3) sosCoded).flen.toNat = 9 by decide +kernel]
    exact ⟨_, rfl⟩

/-- With FEC the longest payload, without it the longest the length byte can say. -/
theorem witness_FrbuildWritesTheFrame :
    (251 ≤ 255 ∧ (sosCoded.cfg.getLsbD 2 = true → 2 * sosCoded.tbudget.toNat ≠ 0 ∧ 251 + 2 * sosCoded.tbudget.toNat ≤ 255)) ∧
    255 ≤ 255 ∧ (sosChecked.cfg.getLsbD 2 = true → 2 * sosChecked.tbudget.toNat ≠ 0 ∧ 255 + 2 * sosChecked.tbudget.toNat ≤ 255) := by
  decide +kernel

/-- The three clauses: a length past the buffer, one below the header, one that does not fit the frame. -/
theorem witness_FrparseRejectsBadLengths :
    258 < 259 ∧ 1 < 2 ∧ 2 ≤ 5 ∧ 5 ≤ 258 ∧
    (255 < (sosFrame.fbuf.read 1).toNat + (if !(sosFrame.fbuf.read 0).getLsbD 2 then 2 * sosFrame.tbudget.toNat else 0) ∨
      5 ≠ 2 + ((sosFrame.fbuf.read 1).toNat + (if !(sosFrame.fbuf.read 0).getLsbD 2 then 2 * sosFrame.tbudget.toNat else 0))
        + if !(sosFrame.fbuf.read 0).getLsbD 1 then 1 else 0) := by decide +kernel

/-- The lengths of a frame without FEC and of one with it. -/
theorem witness_FrparseRepairsThenValidates :
    (!(sosFrame.fbuf.read 0).getLsbD 2) = false ∧ (!(sosFrame.fbuf.read 0).getLsbD 1) = true ∧
    (sosFrame.fbuf.read 1).toNat + 0 ≤ 255 ∧ 6 = 2 + ((sosFrame.fbuf.read 1).toNat + 0) + 1 ∧
    (!(sosCodedFrame.fbuf.read 0).getLsbD 2) = true ∧ (!(sosCodedFrame.fbuf.read 0).getLsbD 1) = true ∧
    (sosCodedFrame.fbuf.read 1).toNat + 2 * sosCodedFrame.tbudget.toNat ≤ 255 ∧
    10 = 2 + ((sosCodedFrame.fbuf.read 1).toNat + 2 * sosCodedFrame.tbudget.toNat) + 1 ∧
    2 * sosCodedFrame.tbudget.toNat ≠ 0 := by decide +kernel

/-- The flags byte `7D` differs from `FD` in a bit that no parse looks at (V-FR-4). -/
theorem witness_FrparseGoesByTheFrame :
    BitVec.getLsbD 0x7D#8 1 = (sosFrame.fbuf.read 0).getLsbD 1 ∧ BitVec.getLsbD 0x7D#8 2 = (sosFrame.fbuf.read 0).getLsbD 2 ∧
    ∃ t, exec (.frparse 6) sosFrame = .next t := ⟨by decide +kernel, by decide +kernel, _, rfl⟩

theorem witness_FrameRoundTrip :
    3 ≤ 255 ∧ (sosCoded.cfg.getLsbD 2 = true → sosCoded.tbudget.toNat ≠ 0 ∧ 3 + 2 * sosCoded.tbudget.toNat ≤ 255) ∧
    exec (.frbuild 3) sosCoded = .next (after (.frbuild 3) sosCoded) ∧
    ∃ u, exec (.frparse (after (.frbuild 3) sosCoded).flen.toNat) { after (.frbuild 3) sosCoded with dbuf := [] } = .next u := by
  refine ⟨by decide, by decide +kernel, rfl, ?_⟩
  rw [show (after (.frbuild 3) sosCoded).flen.toNat = 9 by decide +kernel]
  exact ⟨_, rfl⟩

/-- A receiver of the frame of "SOS" with one bit flipped, something else in its `DBUF`. -/
def flipped (i b : Nat) : State :=
  { after (.frbuild 3) sosChecked with
    fbuf := (after (.frbuild 3) sosChecked).fbuf.write i ((after (.frbuild 3) sosChecked).fbuf.read i ^^^ (1#8 <<< b))
    dbuf := [(0, 0xFF)] }

/-- A bit of each field of the frame: the flags byte with a bit that is looked at and one that is not, the length byte,
the first payload byte and the checksum byte. -/
theorem witness_SingleBitDamage :
    3 ≤ 255 ∧ sosChecked.cfg.getLsbD 1 = true ∧ sosChecked.cfg.getLsbD 2 = false ∧ sosChecked.tbudget.toNat ≠ 0 ∧
    exec (.frbuild 3) sosChecked = .next (after (.frbuild 3) sosChecked) ∧ 0 < 3 + 3 ∧ 1 < 3 + 3 ∧ 2 < 3 + 3 ∧ 5 < 3 + 3 ∧
    0 < 8 ∧ 1 < 8 ∧ 7 < 8 ∧ (after (.frbuild 3) sosChecked).flen.toNat = 6 ∧
    (∃ u, exec (.frparse 6) (flipped 0 1) = .next u) ∧ (∃ u, exec (.frparse 6) (flipped 0 7) = .next u) ∧
    (∃ u, exec (.frparse 6) (flipped 1 0) = .next u) ∧ (∃ u, exec (.frparse 6) (flipped 2 0) = .next u) ∧
    ∃ u, exec (.frparse 6) (flipped 5 7) = .next u := by
  refine ⟨by decide, by decide, by decide, by decide, rfl, by decide, by decide, by decide, by decide, by decide,
    by decide, by decide, by decide +kernel, ?_⟩
  exact ⟨⟨_, rfl⟩, ⟨_, rfl⟩, ⟨_, rfl⟩, ⟨_, rfl⟩, ⟨_, rfl⟩⟩

/-- V-FR-12: what those bits do. -/
theorem test_single_bit :
    (after (.frparse 6) (flipped 0 1)).result = 3 ∧ (after (.frparse 6) (flipped 0 7)).result = 0 ∧
    (after (.frparse 6) (flipped 0 7)).dbuf = sos.dbuf ∧ (after (.frparse 6) (flipped 1 0)).result = 3 ∧
    (after (.frparse 6) (flipped 2 0)).result = 1 ∧ (after (.frparse 6) (flipped 5 7)).result = 1 := by decide +kernel

/-- The last and first symbol of each kind, and the one past the end (V-TN-3). -/
theorem witness_LineSequence :
    2 < sosFrame.khail.toNat ∧ sosFrame.khail.toNat ≤ 3 ∧ 3 < sosFrame.khail.toNat + sosFrame.flen.toNat ∧
    sosFrame.khail.toNat ≤ 8 ∧ 8 < sosFrame.khail.toNat + sosFrame.flen.toNat ∧
    9 = sosFrame.khail.toNat + sosFrame.flen.toNat ∧ sosFrame.khail.toNat + sosFrame.flen.toNat < 10 := by decide +kernel

end Sys2Proof.Tests
end

section
/-! PROOF. What a command does to the block, as one function of the block alone. The host's pending moves therefore
stay, and steer nothing. -/

namespace Sys2Proof.Machine

/-! ## The effect of a command on the block -/

/-- What a command makes of the block: the rule's effect, or the fault that its tests raise (60_exceptions.md R231). -/
def Block.effect (i : Instr) (s : Block) : Block :=
  match i with
  | .gfmul a b => s.setRes (gmul a b)
  | .gfinv a =>
    match ginv a with
    | none => s.raise .inverseOfZero
    | some r => s.setRes r
  | .wrb addr data =>
    match placeAt addr with
    | none => s.raise .addressRange
    | some p => if p.writable then s.store p data else s.raise .writeToReadOnly
  | .rdb addr =>
    match placeAt addr with
    | none => s.raise .addressRange
    | some p => s.setRes (s.load p)
  | .rsenc k npar =>
    if codewordInRange k npar then (s.encodePayload k npar).setResult .ok else s.raise .operandRange
  | .rssyn k npar => if codewordInRange k npar then s.computeSyndromes k npar else s.raise .operandRange
  | .rsdec k npar => if codewordInRange k npar then s.decodeCodeword k npar else s.raise .operandRange
  | .frbuild k => if buildInRange (usesFec s.cfg) k s.tbudget.toNat then s.buildFrame k else s.raise .operandRange
  | .frparse len => if parseInRange len then s.parseFrame len else s.raise .operandRange
  | .tone b => s.setLine .data (toneIndex b)
  | .lsym idx => if symbolInRange idx s.khail.toNat s.flen.toNat then s.lineSymbol idx else s.raise .operandRange

/-- A test between two effects on the block is itself an effect on the block. -/
theorem State.ite_next_onBlock (s : State) (test : Bool) (f g : Block → Block) :
    (if test then Host.Outcome.next (s.onBlock f) else .next (s.onBlock g) : Host.Outcome State Fault Refusal) =
      .next { s with toBlock := if test then f s.toBlock else g s.toBlock } := by
  cases test <;> rfl

/-- Every command completes, with its effect on the block and the host's pending moves as they were. -/
theorem exec_eq_effect (i : Instr) (s : State) : exec i s = .next (s.onBlock (Block.effect i)) := by
  cases i with
  | gfmul a b => rfl
  | gfinv a => cases hg : ginv a <;> simp only [exec, execGfinv, Block.effect, State.onBlock, hg]
  | wrb addr data =>
    cases hp : placeAt addr with
    | none => simp only [exec, execWrb, Block.effect, State.onBlock, hp]
    | some p =>
      simp only [exec, execWrb, Block.effect, State.onBlock, hp]
      cases p.writable <;> rfl
  | rdb addr => cases hp : placeAt addr <;> simp only [exec, execRdb, Block.effect, State.onBlock, hp]
  | rsenc k npar => exact s.ite_next_onBlock _ _ _
  | rssyn k npar => exact s.ite_next_onBlock _ _ _
  | rsdec k npar => exact s.ite_next_onBlock _ _ _
  | frbuild k => exact s.ite_next_onBlock _ _ _
  | frparse len => exact s.ite_next_onBlock _ _ _
  | tone b => rfl
  | lsym idx => exact s.ite_next_onBlock _ _ _

/-- The state a command leads to. -/
theorem exec_eq_next_iff {i : Instr} {s t : State} : exec i s = .next t ↔ s.onBlock (Block.effect i) = t := by
  rw [exec_eq_effect, Host.Outcome.next.injEq]

/-- Settles O55: a command is an effect on the block, which the host's pending moves are beside. -/
theorem commandsIgnoreThePendingMoves : Obligations.CommandsIgnoreThePendingMoves := by
  unfold Obligations.CommandsIgnoreThePendingMoves
  intro i s t moves ht
  obtain rfl := exec_eq_next_iff.1 ht
  exact ⟨s.onBlock_port _, exec_eq_effect i (s.setPort moves)⟩

end Sys2Proof.Machine
end

section
/-! PROOF. The legal states: each update and each shared operation keeps them, hence every command and every move of the
host; and reset is one. -/

namespace Sys2Proof.Machine

/-! ## Arrays in canonical form -/

theorem Memory.canonical_writeBytes {m : Memory} {size base : Nat} {bs : List Byte} (h : m.Canonical size)
    (hb : base + bs.length ≤ size) : (m.writeBytes base bs).Canonical size :=
  ⟨Memory.wf_writeBytes h.1 base bs, Memory.within_writeBytes h.2 hb⟩

theorem Memory.canonical_ofBytes {bs : List Byte} {size : Nat} (h : bs.length ≤ size) :
    (Memory.ofBytes bs).Canonical size :=
  ⟨Memory.wf_ofBytes bs, Memory.within_ofBytes h⟩

/-- The bytes an array is written from are all 0 exactly when it reads 0 everywhere. -/
theorem Memory.all_zero_iff_read (bs : List Byte) : bs.all (· == 0) = true ↔ ∀ j, (Memory.ofBytes bs).read j = 0 := by
  simp only [List.all_eq_true, beq_iff_eq, Memory.read_ofBytes]
  constructor
  · intro h j
    rcases Nat.lt_or_ge j bs.length with hj | hj
    · rw [List.getD_eq_getElem _ _ hj]
      exact h _ (List.getElem_mem hj)
    · exact List.getD_eq_default _ _ hj
  · intro h b hb
    obtain ⟨j, hj, rfl⟩ := List.getElem_of_mem hb
    rw [← List.getD_eq_getElem _ 0 hj]
    exact h j

/-! ## The updates keep the legal states -/

namespace Block.Legal

variable {s : Block} (h : s.Legal)
include h

theorem setRes (v : Byte) : (s.setRes v).Legal := { h with }

theorem setLine (kind : LineKind) (v : Byte) : (s.setLine kind v).Legal :=
  { h with resk := by rw [setLine_resk]; cases kind <;> decide }

theorem setResult (c : ResultCode) : (s.setResult c).Legal := { h with }

theorem setCfg (v : BitVec 3) : (s.setCfg v).Legal := { h with }

theorem setFlen {n : Nat} (hn : n ≤ 258) : (s.setFlen n).Legal :=
  { h with flen := by rw [setFlen_flen, BitVec.toNat_ofNat]; omega }

theorem setPlen (k : Byte) : (s.setPlen k).Legal := { h with }

theorem setRxflags (v : Byte) : (s.setRxflags v).Legal := { h with }

theorem writeDbuf {base : Nat} {bs : List Byte} (hb : base + bs.length ≤ 255) : (s.writeDbuf base bs).Legal :=
  { h with dbuf := Memory.canonical_writeBytes h.dbuf hb }

theorem writeFbuf {base : Nat} {bs : List Byte} (hb : base + bs.length ≤ 258) : (s.writeFbuf base bs).Legal :=
  { h with fbuf := Memory.canonical_writeBytes h.fbuf hb }

theorem setEncoder {gen par : List Byte} (hg : gen.length ≤ 256) (hp : par.length ≤ 256) :
    (s.setEncoder gen par).Legal :=
  { h with gen := Memory.canonical_ofBytes hg, par := Memory.canonical_ofBytes hp }

/-- `SYNNZ` is written from the syndromes themselves (42_rs_decoder.md R142). -/
theorem setSyndromes {syn : List Byte} (hs : syn.length ≤ 256) : (s.setSyndromes syn).Legal :=
  { h with
    syn := Memory.canonical_ofBytes hs
    synnz := by
      rw [setSyndromes_synnz, setSyndromes_syn, ← not_forall, ← Memory.all_zero_iff_read]
      split
      · exact iff_of_false (by decide) (not_not.2 ‹_›)
      · exact iff_of_true rfl ‹_› }

/-- The solver's registers as it writes them: the constant coefficient of `LAMBDA` is 1 (42_rs_decoder.md R147), and there
are few enough locations for `NERR` to count. -/
theorem setSolver {lam om : List Byte} {locs : List Nat} (hl : lam.length ≤ 256) (h1 : coeff lam 0 = 1)
    (ho : om.length ≤ 256) (hn : locs.length ≤ 255) : (s.setSolver lam om locs).Legal :=
  { h with
    lambda := Memory.canonical_ofBytes hl
    omega := Memory.canonical_ofBytes ho
    errloc := Memory.canonical_ofBytes (by rw [List.length_map]; exact hn.trans (by decide))
    locator := .inl (by rw [setSolver_lambda, Memory.read_ofBytes]; exact h1)
    locations := fun j hj => by
      rw [setSolver_nerr, BitVec.toNat_ofNat, Nat.mod_eq_of_lt (by omega)] at hj
      rw [setSolver_errloc, Memory.read_ofBytes]
      exact List.getD_eq_default _ _ (by simpa using hj) }

theorem raise (f : FaultCode) : (s.raise f).Legal := { h with fault := by rw [raise_fault]; cases f <;> decide }

/-! ## The shared operations keep the legal states -/

theorem encodePayload {k npar : Nat} (hn : k + npar ≤ 255) : (s.encodePayload k npar).Legal :=
  (h.setEncoder (by simp; omega) (by simp; omega)).writeDbuf (by simpa using hn)

theorem computeSyndromes {k npar : Nat} (hn : k + npar ≤ 255) : (s.computeSyndromes k npar).Legal :=
  h.setSyndromes (by simp; omega)

/-- The correction writes below `n` only. -/
theorem correct {n : Nat} (h0 : 0 < n) (hn : n ≤ 255) (is : List Nat) (es : List Byte) : (s.correct n is es).Legal := by
  induction is generalizing s es with
  | nil => exact h
  | cons i is ih => cases es with
    | nil => exact h
    | cons e es => exact ih (h.writeDbuf (by simp; omega)) es

theorem decodeCodeword {k npar : Nat} (hn : k + npar ≤ 255) : (s.decodeCodeword k npar).Legal := by
  have hsyn := h.computeSyndromes hn
  have hsolver (syn : List Byte) := hsyn.setSolver (lam := errorLocator syn npar)
    (om := errorEvaluator (errorLocator syn npar) syn npar) (locs := errorLocations (errorLocator syn npar) npar)
    (by have := length_errorLocator_le syn npar; omega) (coeff_errorLocator_zero syn npar) (by simp; omega)
    (length_errorLocations_le _ npar)
  rcases s.decodeCodeword_cases k npar with
    ⟨-, heq⟩ | ⟨-, syn, _, _, _, -, rfl, rfl, rfl, ⟨-, heq⟩ | ⟨es, hes, heq⟩⟩ <;> rw [heq]
  · exact (hsyn.setSolver (by simp) rfl (by simp) (by simp)).setResult _
  · exact (hsolver syn).setResult _
  · obtain ⟨hne, -, hlt, -⟩ := corrections_eq_some hes
    obtain ⟨i, hi⟩ := List.exists_mem_of_ne_nil _ hne
    have h0 : 0 < k + npar := Nat.zero_lt_of_lt (hlt i hi)
    exact ((hsolver syn).correct h0 hn _ es).setResult _

theorem buildFrame {k : Nat} (hk : k ≤ 255) (hfec : usesFec s.cfg = true → k + 2 * s.tbudget.toNat ≤ 255) :
    (s.buildFrame k).Legal := by
  have hn : bodyLength (usesFec s.cfg) k s.tbudget.toNat ≤ 255 := by
    unfold bodyLength
    split
    · exact hfec ‹_›
    · exact hk
  have hs1 : (if usesFec s.cfg then s.encodePayload k (2 * s.tbudget.toNat) else s).Legal := by
    split
    · exact h.encodePayload (hfec ‹_›)
    · exact h
  have hlen : frameLength (usesChecksum s.cfg) (bodyLength (usesFec s.cfg) k s.tbudget.toNat) ≤ 258 := by
    unfold frameLength
    split <;> omega
  refine (((hs1.writeFbuf ?_).setFlen hlen).setPlen _).setResult _
  simp only [List.length_append, List.length_cons, List.length_nil, Memory.length_bytes]
  split <;> simp <;> omega

theorem validateChecksum (checksum : Bool) (n : Nat) : (s.validateChecksum checksum n).Legal := by
  rcases s.validateChecksum_cases checksum n with ⟨-, -, heq⟩ | ⟨-, heq⟩ <;> rw [heq] <;> exact h.setResult _

theorem parseBody {fec : Bool} {k t : Nat} (hn : bodyLength fec k t ≤ 255) (checksum : Bool) :
    (s.parseBody checksum fec k t).Legal := by
  have hs1 := h.writeDbuf (base := 0) (bs := s.fbuf.bytes 2 (bodyLength fec k t)) (by simpa using hn)
  unfold Block.parseBody
  cases fec with
  | false => exact hs1.validateChecksum checksum _
  | true =>
    have hs2 := hs1.decodeCodeword (k := k) (npar := 2 * t) hn
    simp only [if_true]
    split
    · exact hs2
    · exact hs2.validateChecksum checksum _

theorem parseFrame {len : Nat} (hl : len ≤ 258) : (s.parseFrame len).Legal := by
  have hs2 := ((h.setFlen hl).setRxflags (s.fbuf.read 0)).setPlen (s.fbuf.read 1)
  rcases s.parseFrame_cases len with
    ⟨-, heq⟩ | ⟨-, _, _, _, rfl, rfl, rfl, ⟨-, heq⟩ | ⟨hn, -, heq⟩⟩ <;> rw [heq]
  · exact (h.setFlen hl).setResult _
  · exact hs2.setResult _
  · exact hs2.parseBody hn _

theorem lineSymbol (idx : Nat) : (s.lineSymbol idx).Legal := by
  unfold Block.lineSymbol
  dsimp only
  split
  · exact h.setLine _ _
  · split <;> exact h.setLine _ _

end Block.Legal

/-! ## Reset, the stores and every command -/

/-- The reset state is one that the rules allow (10_state.md R41). -/
theorem Block.legal_reset : Block.reset.Legal where
  dbuf := ⟨rfl, rfl⟩
  fbuf := ⟨rfl, rfl⟩
  gen := ⟨rfl, rfl⟩
  par := ⟨rfl, rfl⟩
  syn := ⟨rfl, rfl⟩
  lambda := ⟨rfl, rfl⟩
  omega := ⟨rfl, rfl⟩
  errloc := ⟨rfl, rfl⟩
  resk := by decide
  flen := by decide
  fault := by decide
  tbudget := rfl
  khail := rfl
  synnz := by simp [Block.reset]
  locator := .inr fun _ => rfl
  locations := fun _ _ => rfl

/-- Settles O17: the legality of the block after reset, field by field. -/
theorem resetIsLegal : Obligations.ResetIsLegal := Block.legal_reset

/-- `DBUF` is mapped inside its size (20_memory.md R61). -/
theorem lt_of_placeAt_dbuf {addr i : Nat} (h : placeAt addr = some (.dbuf i)) : i < 255 := by
  unfold placeAt at h
  repeat' split at h
  all_goals simp at h
  omega

/-- `FBUF` is mapped inside its size (20_memory.md R61). -/
theorem lt_of_placeAt_fbuf {addr i : Nat} (h : placeAt addr = some (.fbuf i)) : i < 258 := by
  unfold placeAt at h
  repeat' split at h
  all_goals simp at h
  omega

namespace Block.Legal

variable {s : Block} (h : s.Legal)
include h

/-- In a legal state the constant registers hold their reset values, so a reset gives the reset state. -/
theorem applyReset_eq : s.applyReset = Block.reset := by
  rw [Block.applyReset, h.tbudget, h.khail]; rfl

/-- A writable place is inside its array (20_memory.md R61). -/
theorem store {addr : Nat} {p : Place} (hp : placeAt addr = some p) (v : Byte) : (s.store p v).Legal := by
  cases p with
  | dbuf i => exact h.writeDbuf (lt_of_placeAt_dbuf hp)
  | fbuf i => exact h.writeFbuf (lt_of_placeAt_fbuf hp)
  | register r => cases r with
    | cfg => exact h.setCfg _
    | _ => exact h
  | _ => exact h

/-- A tested effect keeps the legal states when it does so under its test: a failed test raises a fault. -/
theorem ite_raise {test : Bool} {b : Block} (hb : test = true → b.Legal) (f : FaultCode) :
    (if test then b else s.raise f).Legal := by
  split
  · exact hb ‹_›
  · exact h.raise f

/-- Every command keeps the legal states. -/
theorem effect (i : Instr) : (Block.effect i s).Legal := by
  cases i with
  | gfmul a b => exact h.setRes _
  | gfinv a =>
    rw [Block.effect]
    split
    · exact h.raise _
    · exact h.setRes _
  | wrb addr data =>
    rw [Block.effect]
    split
    · exact h.raise _
    · exact h.ite_raise (fun _ => h.store ‹_› data) _
  | rdb addr =>
    rw [Block.effect]
    split
    · exact h.raise _
    · exact h.setRes _
  | rsenc k npar =>
    exact h.ite_raise (fun hr => (h.encodePayload ((codewordInRange_iff k npar).1 hr).2).setResult _) _
  | rssyn k npar => exact h.ite_raise (fun hr => h.computeSyndromes ((codewordInRange_iff k npar).1 hr).2) _
  | rsdec k npar => exact h.ite_raise (fun hr => h.decodeCodeword ((codewordInRange_iff k npar).1 hr).2) _
  | frbuild k =>
    refine h.ite_raise (fun hr => ?_) _
    obtain ⟨hk, hfec⟩ := (buildInRange_iff _ _ _).1 hr
    exact h.buildFrame hk hfec
  | frparse len => exact h.ite_raise (fun hr => h.parseFrame ((parseInRange_iff len).1 hr)) _
  | tone b => exact h.setLine _ _
  | lsym idx => exact h.ite_raise (fun _ => h.lineSymbol idx) _

end Block.Legal

/-- A command word is ignored, illegal, or a command, and keeps the legal states each time. -/
theorem execWord_keeps_legal {s t : State} (h : s.Legal) (w : Word) (ht : execWord w s = .next t) : t.Legal := by
  rcases execWord_cases w s with ⟨-, heq⟩ | ⟨-, -, heq⟩ | ⟨-, i, -, heq⟩ <;> rw [heq] at ht
  · obtain rfl := Host.Outcome.next.inj ht
    exact h
  · obtain rfl := Host.Outcome.next.inj ht
    exact h.raise _
  · obtain rfl := exec_eq_next_iff.1 ht
    exact h.effect i

/-- Settles O18: a step is idle, a reset, or a command word, and each of the three keeps the legal states. -/
theorem stepKeepsLegal : Obligations.StepKeepsLegal := by
  unfold Obligations.StepKeepsLegal
  intro s t h ht
  rcases step_cases s with ⟨-, heq⟩ | ⟨rest, -, heq⟩ | ⟨w, rest, -, heq⟩ <;> rw [heq] at ht
  · obtain rfl := Host.Outcome.next.inj ht
    exact h
  · obtain rfl := Host.Outcome.next.inj ht
    rw [State.onBlock_toBlock, State.setPort_toBlock, h.applyReset_eq]
    exact Block.legal_reset
  · exact execWord_keeps_legal (s := s.setPort rest) h w ht

end Sys2Proof.Machine
end

section
/-! PROOF. The outputs `RES`, `RESK`, `RESULT`, `SYNNZ` and `NERR` steer nothing (10_state.md R40): a relation between blocks
that differ in them only, which every operation keeps. -/

namespace Sys2Proof.Machine

/-! ## Blocks that differ in the outputs only -/

/-- `RES`, `RESK`, `RESULT`, `SYNNZ` and `NERR` taken over from another block. -/
def Block.withOutputsOf (s o : Block) : Block :=
  { s with res := o.res, resk := o.resk, result := o.result, synnz := o.synnz, nerr := o.nerr }

/-- `c` is `b` but for its outputs. -/
def Block.SameButOutputs (b c : Block) : Prop := c = b.withOutputsOf c

namespace Block.SameButOutputs

variable {b c : Block} (h : b.SameButOutputs c)
include h

theorem exists_withOutputsOf : ∃ o, c = b.withOutputsOf o := ⟨c, h⟩

/-! ### The state that tests and rules read is the same -/

theorem dbuf_eq : c.dbuf = b.dbuf := by obtain ⟨o, rfl⟩ := h.exists_withOutputsOf; rfl
theorem fbuf_eq : c.fbuf = b.fbuf := by obtain ⟨o, rfl⟩ := h.exists_withOutputsOf; rfl
theorem flen_eq : c.flen = b.flen := by obtain ⟨o, rfl⟩ := h.exists_withOutputsOf; rfl
theorem cfg_eq : c.cfg = b.cfg := by obtain ⟨o, rfl⟩ := h.exists_withOutputsOf; rfl
theorem tbudget_eq : c.tbudget = b.tbudget := by obtain ⟨o, rfl⟩ := h.exists_withOutputsOf; rfl
theorem khail_eq : c.khail = b.khail := by obtain ⟨o, rfl⟩ := h.exists_withOutputsOf; rfl

/-! ### The updates keep the relation -/

/-- `RES` is an output, so the relation holds whatever is written there. -/
theorem setRes (v w : Byte) : (b.setRes v).SameButOutputs (c.setRes w) := by
  obtain ⟨o, rfl⟩ := h.exists_withOutputsOf; rfl

theorem setLine (kind : LineKind) (v : Byte) : (b.setLine kind v).SameButOutputs (c.setLine kind v) := by
  obtain ⟨o, rfl⟩ := h.exists_withOutputsOf; rfl

theorem setResult (r : ResultCode) : (b.setResult r).SameButOutputs (c.setResult r) := by
  obtain ⟨o, rfl⟩ := h.exists_withOutputsOf; rfl

theorem setFlen (n : Nat) : (b.setFlen n).SameButOutputs (c.setFlen n) := by
  obtain ⟨o, rfl⟩ := h.exists_withOutputsOf; rfl

theorem setPlen (k : Byte) : (b.setPlen k).SameButOutputs (c.setPlen k) := by
  obtain ⟨o, rfl⟩ := h.exists_withOutputsOf; rfl

theorem setRxflags (v : Byte) : (b.setRxflags v).SameButOutputs (c.setRxflags v) := by
  obtain ⟨o, rfl⟩ := h.exists_withOutputsOf; rfl

theorem writeDbuf (base : Nat) (bs : List Byte) : (b.writeDbuf base bs).SameButOutputs (c.writeDbuf base bs) := by
  obtain ⟨o, rfl⟩ := h.exists_withOutputsOf; rfl

theorem writeFbuf (base : Nat) (bs : List Byte) : (b.writeFbuf base bs).SameButOutputs (c.writeFbuf base bs) := by
  obtain ⟨o, rfl⟩ := h.exists_withOutputsOf; rfl

theorem setSolver (lam om : List Byte) (locs : List Nat) :
    (b.setSolver lam om locs).SameButOutputs (c.setSolver lam om locs) := by
  obtain ⟨o, rfl⟩ := h.exists_withOutputsOf; rfl

theorem raise (f : FaultCode) : (b.raise f).SameButOutputs (c.raise f) := by
  obtain ⟨o, rfl⟩ := h.exists_withOutputsOf; rfl

/-! ### The shared operations keep the relation -/

theorem store (p : Place) (v : Byte) : (b.store p v).SameButOutputs (c.store p v) := by
  obtain ⟨o, rfl⟩ := h.exists_withOutputsOf
  cases p with
  | register r => cases r <;> rfl
  | _ => rfl

theorem encodePayload (k npar : Nat) : (b.encodePayload k npar).SameButOutputs (c.encodePayload k npar) := by
  obtain ⟨o, rfl⟩ := h.exists_withOutputsOf; rfl

theorem computeSyndromes (k npar : Nat) : (b.computeSyndromes k npar).SameButOutputs (c.computeSyndromes k npar) := by
  obtain ⟨o, rfl⟩ := h.exists_withOutputsOf; rfl

/-- `SYNNZ` is written before the decoder tests it. -/
theorem computeSyndromes_synnz_eq (k npar : Nat) :
    (c.computeSyndromes k npar).synnz = (b.computeSyndromes k npar).synnz := by
  obtain ⟨o, rfl⟩ := h.exists_withOutputsOf; rfl

theorem correct (n : Nat) (is : List Nat) (es : List Byte) : (b.correct n is es).SameButOutputs (c.correct n is es) := by
  induction is generalizing b c es with
  | nil => exact h
  | cons i is ih => cases es with
    | nil => exact h
    | cons e es =>
      rw [Block.correct, Block.correct, h.dbuf_eq]
      exact ih (h.writeDbuf _ _) es

/-- The decoder writes `RESULT` at each of its ends, so that a parse may test it afterwards. -/
theorem decodeCodeword (k npar : Nat) :
    (b.decodeCodeword k npar).SameButOutputs (c.decodeCodeword k npar) ∧
      (c.decodeCodeword k npar).result = (b.decodeCodeword k npar).result := by
  have hs := h.computeSyndromes k npar
  unfold Block.decodeCodeword
  dsimp only
  rw [h.computeSyndromes_synnz_eq, h.dbuf_eq]
  split
  · exact ⟨(hs.setSolver _ _ _).setResult _, rfl⟩
  · split
    · exact ⟨(hs.setSolver _ _ _).setResult _, rfl⟩
    · exact ⟨((hs.setSolver _ _ _).correct _ _ _).setResult _, rfl⟩

theorem buildFrame (k : Nat) : (b.buildFrame k).SameButOutputs (c.buildFrame k) := by
  obtain ⟨o, rfl⟩ := h.exists_withOutputsOf
  unfold Block.buildFrame
  rw [h.cfg_eq, h.tbudget_eq]
  dsimp only
  split <;> rfl

theorem validateChecksum (checksum : Bool) (n : Nat) :
    (b.validateChecksum checksum n).SameButOutputs (c.validateChecksum checksum n) := by
  unfold Block.validateChecksum
  rw [h.dbuf_eq, h.fbuf_eq]
  split <;> exact h.setResult _

theorem parseBody (checksum fec : Bool) (k t : Nat) :
    (b.parseBody checksum fec k t).SameButOutputs (c.parseBody checksum fec k t) := by
  unfold Block.parseBody
  rw [h.fbuf_eq]
  dsimp only
  have hs1 := h.writeDbuf 0 (b.fbuf.bytes 2 (bodyLength fec k t))
  split
  · obtain ⟨hs2, hresult⟩ := hs1.decodeCodeword k (2 * t)
    rw [hresult]
    split
    · exact hs2
    · exact hs2.validateChecksum _ _
  · exact hs1.validateChecksum _ _

theorem parseFrame (len : Nat) : (b.parseFrame len).SameButOutputs (c.parseFrame len) := by
  have hs1 := h.setFlen len
  have hs2 := (hs1.setRxflags (b.fbuf.read 0)).setPlen (b.fbuf.read 1)
  unfold Block.parseFrame
  rw [h.fbuf_eq, h.tbudget_eq]
  dsimp only
  split
  · exact hs1.setResult _
  · split
    · exact hs2.setResult _
    · split
      · exact hs2.setResult _
      · exact hs2.parseBody _ _ _ _

theorem lineSymbol (idx : Nat) : (b.lineSymbol idx).SameButOutputs (c.lineSymbol idx) := by
  unfold Block.lineSymbol
  rw [h.khail_eq, h.flen_eq, h.fbuf_eq]
  dsimp only
  split
  · exact h.setLine _ _
  · split <;> exact h.setLine _ _

/-! ### Every command keeps the relation -/

/-- A test that both blocks answer alike leads both to an effect or both to a fault. -/
theorem ite_raise {test : Bool} {b' c' : Block} (h' : b'.SameButOutputs c') (f : FaultCode) :
    (if test then b' else b.raise f).SameButOutputs (if test then c' else c.raise f) := by
  split
  · exact h'
  · exact h.raise f

theorem effect (i : Instr) : (Block.effect i b).SameButOutputs (Block.effect i c) := by
  cases i with
  | gfmul a b => exact h.setRes _ _
  | gfinv a =>
    rw [Block.effect, Block.effect]
    cases ginv a with
    | none => exact h.raise _
    | some r => exact h.setRes _ _
  | wrb addr data =>
    rw [Block.effect, Block.effect]
    cases placeAt addr with
    | none => exact h.raise _
    | some p => exact h.ite_raise (h.store p data) _
  | rdb addr =>
    rw [Block.effect, Block.effect]
    cases placeAt addr with
    | none => exact h.raise _
    | some p => exact h.setRes _ _
  | rsenc k npar => exact h.ite_raise ((h.encodePayload k npar).setResult _) _
  | rssyn k npar => exact h.ite_raise (h.computeSyndromes k npar) _
  | rsdec k npar => exact h.ite_raise (h.decodeCodeword k npar).1 _
  | frbuild k =>
    simp only [Block.effect, h.cfg_eq, h.tbudget_eq]
    exact h.ite_raise (h.buildFrame k) _
  | frparse len => exact h.ite_raise (h.parseFrame len) _
  | tone b => exact h.setLine _ _
  | lsym idx =>
    simp only [Block.effect, h.khail_eq, h.flen_eq]
    exact h.ite_raise (h.lineSymbol idx) _

end Block.SameButOutputs

/-- Settles O20: two states that differ in the outputs only have blocks in the relation, which every effect keeps. -/
theorem outputsSteerNothing : Obligations.OutputsSteerNothing := by
  unfold Obligations.OutputsSteerNothing
  intro i s t res resk result synnz nerr ht
  obtain rfl := exec_eq_next_iff.1 ht
  have hb : s.toBlock.SameButOutputs
      { s.toBlock with res := res, resk := resk, result := result, synnz := synnz, nerr := nerr } := rfl
  exact ⟨_, exec_eq_effect i _, congrArg (fun b => { s with toBlock := b }) (hb.effect i)⟩

end Sys2Proof.Machine
end

section
/-! PROOF. `RDB` and `WRB` as a load from and a store to the place an address maps to (20_memory.md R61, R66). -/

namespace Sys2Proof.Machine

/-! ## The address map: one place an address, one address a place -/

/-- The arrays that `RDB` alone reaches (20_memory.md R61). -/
theorem placeAt_workingArrays {i : Nat} (h : i < 256) :
    placeAt (0x300 + i) = some (.gen i) ∧ placeAt (0x400 + i) = some (.par i) ∧ placeAt (0x500 + i) = some (.syn i) ∧
    placeAt (0x600 + i) = some (.lambda i) ∧ placeAt (0x700 + i) = some (.omega i) ∧
    placeAt (0x800 + i) = some (.errloc i) := by
  refine ⟨?_, ?_, ?_, ?_, ?_, ?_⟩ <;>
    simp (disch := omega) only [placeAt, if_pos, if_neg, Nat.add_sub_cancel_left]

theorem exists_placeAt_of_mapped {addr : Nat} (h : ¬ UnmappedAddress addr) : ∃ p, placeAt addr = some p :=
  Option.ne_none_iff_exists'.1 (mt (placeAt_eq_none_iff addr).1 h)

/-- An address that is neither unmapped nor read-only is one of `DBUF`, `FBUF` or `CFG` (45_host_access.md R220). -/
theorem exists_writable_placeAt {addr : Nat} (hmap : ¬ UnmappedAddress addr) (hrw : ¬ ReadOnlyAddress addr) :
    ∃ p, placeAt addr = some p ∧ p.writable = true := by
  obtain hd | hf | rfl : addr ≤ 0x0FE ∨ (0x100 ≤ addr ∧ addr ≤ 0x201) ∨ addr = 0xF08 := by omega
  · exact ⟨_, placeAt_dbuf hd, rfl⟩
  · exact ⟨_, placeAt_fbuf hf.1 hf.2, rfl⟩
  · exact ⟨.register .cfg, rfl, rfl⟩

/-- The address of a place, read from the map of 20_memory.md R61 the other way. -/
def Place.address : Place → Nat
  | .dbuf i => i
  | .fbuf i => 0x100 + i
  | .gen i => 0x300 + i
  | .par i => 0x400 + i
  | .syn i => 0x500 + i
  | .lambda i => 0x600 + i
  | .omega i => 0x700 + i
  | .errloc i => 0x800 + i
  | .register r => 0xF00 + registerMap.idxOf r

theorem idxOf_registerMap {n : Nat} {r : Register} (h : registerMap[n]? = some r) : registerMap.idxOf r = n := by
  obtain ⟨hn, rfl⟩ := List.getElem?_eq_some_iff.1 h
  exact List.Nodup.idxOf_getElem (by decide) n hn

theorem address_of_placeAt {addr : Nat} {p : Place} (h : placeAt addr = some p) : p.address = addr := by
  unfold placeAt at h
  repeat' split at h
  all_goals simp only [Option.some.injEq, reduceCtorEq, Option.map_eq_some_iff] at h
  case isFalse =>
    obtain ⟨r, hr, rfl⟩ := h
    rw [Place.address, idxOf_registerMap hr]
    omega
  all_goals
    subst h
    simp (disch := omega) only [Place.address, Nat.add_sub_cancel']

/-- No two addresses reach one place. -/
theorem placeAt_injective {a b : Nat} {p : Place} (ha : placeAt a = some p) (hb : placeAt b = some p) : a = b :=
  (address_of_placeAt ha).symm.trans (address_of_placeAt hb)

/-! ## The commands on a mapped address -/

theorem exec_rdb {addr : Nat} {p : Place} (hp : placeAt addr = some p) (s : State) :
    exec (.rdb addr) s = .next (s.onBlock (·.setRes (s.load p))) := by
  simp only [exec, execRdb, hp]

theorem exec_rdb_unmapped {addr : Nat} (h : UnmappedAddress addr) (s : State) :
    exec (.rdb addr) s = .next (s.onBlock (·.raise .addressRange)) := by
  simp only [exec, execRdb, (placeAt_eq_none_iff addr).2 h]

theorem exec_wrb {addr : Nat} {p : Place} (hp : placeAt addr = some p) (hw : p.writable = true) (data : Byte)
    (s : State) : exec (.wrb addr data) s = .next (s.onBlock (·.store p data)) := by
  simp only [exec, execWrb, hp, hw, if_true]

/-! ## Registers as bytes -/

/-- Zeros put above a register widen it (20_memory.md R61). -/
theorem zeroExtend_eq_append {n w : Nat} (x : BitVec w) : x.zeroExtend (n + w) = 0#n ++ x := by
  apply BitVec.eq_of_toNat_eq
  simp [Nat.mod_eq_of_lt (Nat.lt_of_lt_of_le x.isLt (Nat.pow_le_pow_right (by decide) (Nat.le_add_left w n)))]

theorem Block.readRegister_flenl (s : Block) : s.readRegister .flenl = BitVec.ofNat 8 (s.flen.toNat % 256) := by
  apply BitVec.eq_of_toNat_eq
  simp [Block.readRegister]

theorem Block.readRegister_flenh (s : Block) : s.readRegister .flenh = BitVec.ofNat 8 (s.flen.toNat / 256) := by
  have := s.flen.isLt
  apply BitVec.eq_of_toNat_eq
  simp [Block.readRegister, Nat.shiftRight_eq_div_pow]
  omega

/-- `RDB` of a register whose byte is known. -/
theorem exec_rdb_register {r : Register} {addr : Nat} {s : State} {v : Byte} (hp : placeAt addr = some (.register r))
    (hv : s.readRegister r = v) : exec (.rdb addr) s = .next { s with res := v } :=
  hv ▸ exec_rdb hp s

/-- Settles O28: each line of the map gives the place, and the place its byte. -/
theorem rdbReadsTheMap : Obligations.RdbReadsTheMap := by
  unfold Obligations.RdbReadsTheMap
  intro s
  refine ⟨fun i hi => exec_rdb (placeAt_dbuf (by omega)) s, fun i hi => ?_, fun i hi => ?_,
    exec_rdb_register rfl rfl,
    exec_rdb_register rfl (zeroExtend_eq_append s.resk),
    exec_rdb_register rfl (zeroExtend_eq_append s.result),
    exec_rdb_register rfl (zeroExtend_eq_append s.synnz),
    exec_rdb_register rfl rfl,
    exec_rdb_register rfl s.readRegister_flenl,
    exec_rdb_register rfl s.readRegister_flenh,
    exec_rdb_register rfl rfl,
    exec_rdb_register rfl (zeroExtend_eq_append s.cfg),
    exec_rdb_register rfl rfl,
    exec_rdb_register rfl rfl,
    exec_rdb_register rfl rfl,
    fun addr h => exec_rdb_unmapped h s⟩
  · have hp := placeAt_fbuf (addr := 0x100 + i) (by omega) (by omega)
    rw [Nat.add_sub_cancel_left] at hp
    exact exec_rdb hp s
  · obtain ⟨hgen, hpar, hsyn, hlambda, homega, herrloc⟩ := placeAt_workingArrays hi
    exact ⟨exec_rdb hgen s, exec_rdb hpar s, exec_rdb hsyn s, exec_rdb hlambda s, exec_rdb homega s, exec_rdb herrloc s⟩

/-! ## Writing a byte twice -/

theorem Memory.drop_cons (j i : Nat) (w : Byte) (m : Memory) :
    drop ((j, w) :: m) i = if j = i then drop m i else (j, w) :: drop m i := by
  by_cases h : j = i <;> simp [drop, h]

theorem Memory.drop_eq_self {m : Memory} {i : Nat} (h : ∀ w, (i, w) ∉ m) : m.drop i = m :=
  List.filter_eq_self.2 fun c hc => bne_iff_ne.2 fun hi => h c.2 (hi ▸ hc)

/-- A cell that was placed is the one a drop at its index takes out again. -/
theorem Memory.drop_place {m : Memory} {i : Nat} (v : Byte) (h : ∀ w, (i, w) ∉ m) : (place i v m).drop i = m := by
  induction m with
  | nil => simp [place, drop]
  | cons c m ih =>
    obtain ⟨j, w⟩ := c
    have hj : j ≠ i := fun e => h w (by simp [e])
    have hm : ∀ w, (i, w) ∉ m := fun w' h' => h w' (List.mem_cons_of_mem _ h')
    rw [place]
    split
    · rw [drop_cons, if_pos rfl, drop_eq_self h]
    · rw [drop_cons, if_neg hj, ih hm]

/-- Whatever the array held at the index, a write takes it out first, so a second equal write finds the cell of the
first and puts it back. -/
@[simp] theorem Memory.write_write_same (m : Memory) (i : Nat) (v : Byte) : (m.write i v).write i v = m.write i v := by
  unfold write
  split
  · exact drop_eq_self (not_mem_drop m i)
  · rw [drop_place v (not_mem_drop m i)]

/-! ## Loads and stores -/

namespace Block

/-- `RES` is no memory that a load of another place reads; a load of `RES` reads the byte that was loaded. -/
theorem load_setRes_load (s : Block) (p : Place) : (s.setRes (s.load p)).load p = s.load p := by
  cases p with
  | register r => cases r <;> rfl
  | _ => rfl

theorem store_eq_update (s : Block) (p : Place) (v : Byte) :
    s.store p v = { s with dbuf := (s.store p v).dbuf, fbuf := (s.store p v).fbuf, cfg := (s.store p v).cfg } := by
  cases p with
  | register r => cases r <;> rfl
  | _ => rfl

theorem store_store_same (s : Block) (p : Place) (v : Byte) : (s.store p v).store p v = s.store p v := by
  cases p with
  | dbuf i => simp only [store, writeDbuf, Memory.writeBytes, Memory.write_write_same]
  | fbuf i => simp only [store, writeFbuf, Memory.writeBytes, Memory.write_write_same]
  | register r => cases r <;> rfl
  | _ => rfl

/-- A store changes what is read at its own place only. -/
theorem load_store_of_ne (s : Block) {p q : Place} (h : q ≠ p) (v : Byte) : (s.store p v).load q = s.load q := by
  cases p with
  | dbuf i => cases q with
    | dbuf j => exact Memory.read_write_other _ v fun e => h (e ▸ rfl)
    | _ => rfl
  | fbuf i => cases q with
    | fbuf j => exact Memory.read_write_other _ v fun e => h (e ▸ rfl)
    | _ => rfl
  | register r => cases r with
    | cfg => cases q with
      | register r' => cases r' with
        | cfg => exact absurd rfl h
        | _ => rfl
      | _ => rfl
    | _ => rfl
  | _ => rfl

end Block

/-! ## Accesses repeated -/

/-- A second `RDB` of the address loads from a block in which only `RES` is another. -/
theorem rdb_changes_res_only {s t : State} {addr : Nat} (hmap : ¬ UnmappedAddress addr)
    (ht : exec (.rdb addr) s = .next t) : t = { s with res := t.res } ∧ exec (.rdb addr) t = .next t := by
  obtain ⟨p, hp⟩ := exists_placeAt_of_mapped hmap
  rw [exec_rdb hp, Host.Outcome.next.injEq] at ht
  subst ht
  refine ⟨rfl, ?_⟩
  rw [exec_rdb hp, State.onBlock_toBlock, Block.load_setRes_load]
  rfl

/-- What `RDB` leaves in `RES` is the same after a store to the place of another address; an unmapped address leaves
`RES` as it was, and a store does not reach it. -/
theorem rdb_res_after_store {s u v : State} {p : Place} {addr addr' : Nat} (hp : placeAt addr = some p) (data : Byte)
    (hne : addr' ≠ addr) (hu : exec (.rdb addr') s = .next u)
    (hv : exec (.rdb addr') (s.onBlock (·.store p data)) = .next v) : v.res = u.res := by
  by_cases h : UnmappedAddress addr'
  · rw [exec_rdb_unmapped h, Host.Outcome.next.injEq] at hu hv
    subst hu hv
    exact s.store_res p data
  · obtain ⟨q, hq⟩ := exists_placeAt_of_mapped h
    have hqp : q ≠ p := by
      rintro rfl
      exact hne (placeAt_injective hq hp)
    rw [exec_rdb hq, Host.Outcome.next.injEq] at hu hv
    subst hu hv
    exact s.load_store_of_ne hqp data

/-- Settles O30: a load changes `RES` only, and a store nothing that is read at another address. -/
theorem accessesAreIdempotent : Obligations.AccessesAreIdempotent := by
  unfold Obligations.AccessesAreIdempotent
  refine ⟨fun s t addr hmap ht => rdb_changes_res_only hmap ht, fun s t addr data hmap hrw ht => ?_⟩
  obtain ⟨p, hp, hw⟩ := exists_writable_placeAt hmap hrw
  rw [exec_wrb hp hw, Host.Outcome.next.injEq] at ht
  subst ht
  refine ⟨congrArg (fun b => { s with toBlock := b }) (s.store_eq_update p data), ?_,
    fun addr' u v hne hu hv => rdb_res_after_store hp data hne hu hv⟩
  rw [exec_wrb hp hw]
  exact congrArg (fun b => Host.Outcome.next { s with toBlock := b }) (s.store_store_same p data)

end Sys2Proof.Machine
end

section
/-! PROOF. The encoding: the decoder accepts exactly the words of the encoding table's rows, decode and encode undo each
other, and every other word raises `IllegalCommand` and nothing else. -/

namespace Sys2Proof

/-! ## A word and its four bytes -/

/-- A word is put together from its four bytes (30_encoding.md R80, R81). -/
theorem wordR_fields (w : Word) : wordR (fieldOp w) (fieldF1 w) (fieldF2 w) (fieldF3 w) = w := by
  refine BitVec.eq_of_getLsbD_eq fun j hj => ?_
  simp only [getLsbD_wordR, fieldOp, fieldF1, fieldF2, fieldF3, BitVec.getLsbD_extractLsb']
  split_ifs <;> grind

/-- A word is put together from its opcode, its 16-bit field and its lowest byte (30_encoding.md R80, R81). -/
theorem wordM_fields (w : Word) : wordM (fieldOp w) (fieldH w) (fieldF3 w) = w := by
  refine BitVec.eq_of_getLsbD_eq fun j hj => ?_
  simp only [getLsbD_wordM, fieldOp, fieldH, fieldF3, BitVec.getLsbD_extractLsb']
  split_ifs <;> grind

/-- Masking a word masks each of its bytes. -/
theorem wordR_and (op f1 f2 f3 op' f1' f2' f3' : Byte) :
    wordR op f1 f2 f3 &&& wordR op' f1' f2' f3' = wordR (op &&& op') (f1 &&& f1') (f2 &&& f2') (f3 &&& f3') := by
  refine BitVec.eq_of_getLsbD_eq fun j _ => ?_
  simp only [BitVec.getLsbD_and, getLsbD_wordR]
  split_ifs <;> rfl

/-- Two words agree exactly when their four bytes do. -/
theorem wordR_inj {op f1 f2 f3 op' f1' f2' f3' : Byte} :
    wordR op f1 f2 f3 = wordR op' f1' f2' f3' ↔ op = op' ∧ f1 = f1' ∧ f2 = f2' ∧ f3 = f3' := by
  constructor
  · intro h
    exact ⟨by simpa using congrArg fieldOp h, by simpa using congrArg fieldF1 h, by simpa using congrArg fieldF2 h,
      by simpa using congrArg fieldF3 h⟩
  · rintro ⟨rfl, rfl, rfl, rfl⟩
    rfl

/-! ## The mask and match columns -/

/-- A row's mask covers the opcode and, of the other bytes, only `f2` and `f3`. -/
theorem Opcode.mask_eq_wordR (o : Opcode) : o.mask = wordR 0xFF 0 (fieldF2 o.mask) (fieldF3 o.mask) := by
  cases o <;> decide

/-- The must-be-zero bits of a row are its mask's bits in `f2` and `f3`. -/
theorem Opcode.mask_and_low (o : Opcode) :
    o.mask &&& 0x00FFFFFF#32 = wordR 0 0 (fieldF2 o.mask) (fieldF3 o.mask) := by
  cases o <;> decide

theorem Opcode.pattern_eq_wordR (o : Opcode) : o.pattern = wordR o.code 0 0 0 := by
  cases o <;> decide

/-- The decoder's test of a row's must-be-zero fields is the row's mask on `f2` and `f3`. -/
theorem Opcode.zerosHold_iff_masked (o : Opcode) (w : Word) :
    o.zerosHold w = true ↔ fieldF2 w &&& fieldF2 o.mask = 0 ∧ fieldF3 w &&& fieldF3 o.mask = 0 := by
  have hones (b : Byte) : b &&& 255#8 = b := BitVec.and_allOnes
  cases o <;> simp [Opcode.zerosHold, Opcode.mask, fieldF2, fieldF3, hones]

/-- The must-be-zero fields are zero exactly when the mask's bits below the opcode are (30_encoding.md R83). -/
theorem Opcode.zerosHold_iff_and_low (o : Opcode) (w : Word) :
    o.zerosHold w = true ↔ w &&& (o.mask &&& 0x00FFFFFF#32) = 0 := by
  have hzero : (0 : Word) = wordR 0 0 0 0 := by decide
  conv => rhs; rw [← wordR_fields w, o.mask_and_low, hzero, wordR_and, wordR_inj]
  simp [o.zerosHold_iff_masked]

/-- A word matches a row exactly when it has the row's opcode and zeros where the row must be zero (30_encoding.md R82). -/
theorem Opcode.and_mask_eq_pattern_iff (o : Opcode) (w : Word) :
    w &&& o.mask = o.pattern ↔ fieldOp w = o.code ∧ o.zerosHold w = true := by
  have hop : fieldOp w &&& 0xFF = fieldOp w := BitVec.and_allOnes
  conv => lhs; rw [← wordR_fields w, o.mask_eq_wordR, o.pattern_eq_wordR, wordR_and, wordR_inj, hop]
  simp [o.zerosHold_iff_masked]

/-! ## What the decoder accepts -/

/-- The lookup answers a row exactly for the row's opcode. -/
theorem Opcode.ofCode_eq_some_iff {op : Byte} {o : Opcode} : Opcode.ofCode op = some o ↔ op = o.code :=
  ⟨fun h => (Opcode.code_of_ofCode h).symm, fun h => h ▸ o.ofCode_code⟩

/-- A word decodes to a command exactly when it has the opcode and the zeros of the command's row and holds the
command's operands. -/
theorem decode_eq_ok_iff_row (w : Word) (i : Instr) :
    decode w = .ok i ↔ fieldOp w = i.opcode.code ∧ i.opcode.zerosHold w = true ∧ i.opcode.command w = i := by
  simp only [decode_eq_ok_iff, Opcode.ofCode_eq_some_iff]
  constructor
  · rintro ⟨o, hop, hz, rfl⟩
    rw [Opcode.opcode_command]
    exact ⟨hop, hz, rfl⟩
  · rintro ⟨hop, hz, hi⟩
    exact ⟨i.opcode, hop, hz, hi⟩

/-- Settles O2: the word's row is fixed by its opcode, and what the row's mask tests is the opcode and the zeros. -/
theorem decodeMatchesTheTable : Obligations.DecodeMatchesTheTable := by
  unfold Obligations.DecodeMatchesTheTable
  intro w o
  rw [o.and_mask_eq_pattern_iff]
  constructor
  · rintro ⟨i, hd, rfl⟩
    obtain ⟨hop, hz, -⟩ := (decode_eq_ok_iff_row w i).1 hd
    exact ⟨hop, hz⟩
  · rintro ⟨hop, hz⟩
    exact ⟨o.command w, (decode_eq_ok_iff w _).2 ⟨o, Opcode.ofCode_eq_some_iff.2 hop, hz, rfl⟩, o.opcode_command w⟩

/-! ## Decode and encode -/

/-- The word of every command holds its row's opcode, zeros and operands. -/
theorem encodedFields (i : Instr) : Laws.EncodedFields.Statement i := by
  cases i with
  | gfmul a b => exact Laws.EncodedFields.gfmul a b
  | gfinv a => exact Laws.EncodedFields.gfinv a
  | wrb addr data => exact Laws.EncodedFields.wrb addr data
  | rdb addr => exact Laws.EncodedFields.rdb addr
  | rsenc k npar => exact Laws.EncodedFields.rsenc k npar
  | rssyn k npar => exact Laws.EncodedFields.rssyn k npar
  | rsdec k npar => exact Laws.EncodedFields.rsdec k npar
  | frbuild k => exact Laws.EncodedFields.frbuild k
  | frparse len => exact Laws.EncodedFields.frparse len
  | tone b => exact Laws.EncodedFields.tone b
  | lsym idx => exact Laws.EncodedFields.lsym idx

/-- Settles O3: the word of a command has its row's opcode and zeros, and the row reads the operands back. -/
theorem decodeOfEncode : Obligations.DecodeOfEncode := by
  unfold Obligations.DecodeOfEncode
  intro i hwf
  obtain ⟨hop, hz, hcommand⟩ := encodedFields i
  exact (decode_eq_ok_iff_row _ i).2 ⟨hop, hz, hcommand hwf⟩

theorem fitsByteField_toNat (b : Byte) : fitsByteField b.toNat = true := by
  have := b.isLt
  simp only [fitsByteField, decide_eq_true_eq]
  omega

theorem fitsHalfField_toNat (h : BitVec 16) : fitsHalfField h.toNat = true := by
  have := h.isLt
  simp only [fitsHalfField, decide_eq_true_eq]
  omega

/-- The operands a row reads from a word fit the fields they come from (30_encoding.md R85). -/
theorem Opcode.wellFormed_command (o : Opcode) (w : Word) : (o.command w).WellFormed := by
  cases o <;> simp [Opcode.command, Instr.WellFormed, Instr.wellFormed, fitsByteField_toNat, fitsHalfField_toNat]

/-- The encoder puts back what a row reads: the operands, its opcode, and zeros in the fields it does not read. -/
theorem Opcode.encode_command (o : Opcode) (w : Word) (hop : fieldOp w = o.code) (hz : o.zerosHold w = true) :
    encode (o.command w) = w := by
  have hR := wordR_fields w
  have hM := wordM_fields w
  rw [hop] at hR hM
  cases o with
  | wrb => simpa [encode, Opcode.command, Instr.opcode] using hM
  | rdb | frparse | lsym =>
    have hf3 : fieldF3 w = 0 := beq_iff_eq.1 hz
    simpa [encode, Opcode.command, Instr.opcode, hf3] using hM
  | gfmul | rsenc | rssyn | rsdec =>
    have hf3 : fieldF3 w = 0 := beq_iff_eq.1 hz
    simpa [encode, Opcode.command, Instr.opcode, hf3] using hR
  | gfinv | frbuild | tone =>
    obtain ⟨hf2, hf3⟩ : fieldF2 w = 0 ∧ fieldF3 w = 0 := by simpa [Opcode.zerosHold] using hz
    simpa [encode, Opcode.command, Instr.opcode, hf2, hf3] using hR

/-- Settles O4: the command is its row's, read from the word, and a row's reading is undone by the encoder. -/
theorem encodeOfDecode : Obligations.EncodeOfDecode := by
  unfold Obligations.EncodeOfDecode
  intro w i hd
  obtain ⟨hop, hz, hi⟩ := (decode_eq_ok_iff_row w i).1 hd
  exact ⟨hi ▸ i.opcode.wellFormed_command w, hi ▸ i.opcode.encode_command w hop hz⟩

/-- Settles O1: each word decodes by computation. -/
theorem decodesWrittenOutWords : Obligations.DecodesWrittenOutWords :=
  ⟨rfl, rfl, rfl, rfl, rfl, rfl, rfl, rfl, rfl, rfl, rfl⟩

end Sys2Proof

namespace Sys2Proof.Machine

/-! ## Illegal words -/

/-- A word that is no command sets `FAULT` to 1 and changes nothing else (60_exceptions.md R231, R232). -/
theorem execWord_of_not_command {s : State} {w : Word} (hs : s.fault = 0) (hw : ∀ i, decode w ≠ .ok i) :
    execWord w s = .next { s with fault := 1 } := by
  rcases execWord_cases w s with ⟨hne, -⟩ | ⟨-, -, heq⟩ | ⟨-, i, hd, -⟩
  · exact absurd hs hne
  · exact heq
  · exact absurd hd (hw i)

/-- Settles O5: the opcode fixes the row, and the row's zeros do not hold. -/
theorem mustBeZeroFieldIsIllegal : Obligations.MustBeZeroFieldIsIllegal := by
  unfold Obligations.MustBeZeroFieldIsIllegal
  intro s w o hs hop hne
  refine execWord_of_not_command hs fun i hd => hne ?_
  obtain ⟨o', hrow, hz, -⟩ := (decode_eq_ok_iff w i).1 hd
  obtain rfl : o = o' := by simpa [hop] using hrow
  exact (o.zerosHold_iff_and_low w).1 hz

/-- Settles O6: a command's opcode is one of the eleven, and none of these lies in a reserved range. -/
theorem reservedOpcodesAreIllegal : Obligations.ReservedOpcodesAreIllegal := by
  unfold Obligations.ReservedOpcodesAreIllegal
  intro s w n hs hn hreserved
  refine execWord_of_not_command hs fun i hd => ?_
  obtain ⟨hop, -, -⟩ := (decode_eq_ok_iff_row w i).1 hd
  rw [hop] at hn
  cases i <;> simp [Instr.opcode, Opcode.code] at hn <;> omega

end Sys2Proof.Machine
end

section
/-! PROOF. The field of 40_gf256.md. The tables follow the recurrence and undo each other (R102, R103); multiplication by
alpha commutes with the polynomial product, so the product of the tables is the polynomial product (R104, R105), and the
laws of the field follow from the two forms together. -/

namespace Sys2Proof.Machine

/-! ## The tables -/

/-- The recurrence of 40_gf256.md R102, with exponents counted modulo 255. -/
theorem apow_succ (e : Nat) : apow (e + 1) = timesAlpha (apow e) := by
  have entries : ∀ i : Byte, apow (i.toNat + 1) = timesAlpha (apow i.toNat) := by decide
  have he : (BitVec.ofNat 8 (e % 255)).toNat = e % 255 := Nat.mod_eq_of_lt (by omega)
  calc apow (e + 1) = apow (e % 255 + 1) := by rw [← apow_mod, ← Nat.mod_add_mod, apow_mod]
    _ = timesAlpha (apow (e % 255)) := by rw [← he, entries]
    _ = timesAlpha (apow e) := by rw [apow_mod]

/-- The logarithm of a power is its exponent, modulo 255 (40_gf256.md R103). -/
theorem gfLog_apow (e : Nat) : gfLog (apow e) = some (e % 255) := by
  have entries : ∀ i : Byte, gfLog (apow i.toNat) = some (i.toNat % 255) := by decide
  have he : (BitVec.ofNat 8 (e % 255)).toNat = e % 255 := Nat.mod_eq_of_lt (by omega)
  rw [← apow_mod, ← he, entries, he, Nat.mod_mod]

@[simp] theorem apow_ne_zero (e : Nat) : apow e ≠ 0#8 := by
  simp [← gfLog_eq_none_iff, gfLog_apow]

/-- Two powers are the same byte exactly when their exponents agree modulo 255. -/
theorem apow_eq_apow_iff {i j : Nat} : apow i = apow j ↔ i % 255 = j % 255 := by
  constructor
  · intro h
    have hlog := congrArg gfLog h
    rwa [gfLog_apow, gfLog_apow, Option.some.injEq] at hlog
  · intro h
    rw [← apow_mod i, h, apow_mod]

/-- The bytes are zero and the 255 powers of alpha (40_gf256.md R101). -/
theorem eq_zero_or_eq_apow (a : Byte) : a = 0#8 ∨ ∃ i, i < 255 ∧ a = apow i := by
  by_cases h : a = 0
  · exact .inl h
  · obtain ⟨i, -, hi, rfl⟩ := gfLog_of_ne_zero h
    exact .inr ⟨i, hi, rfl⟩

/-- Settles O25: the recurrence holds at every exponent, and equal powers have equal exponents. -/
theorem tablesFollowTheRecurrence : Obligations.TablesFollowTheRecurrence := by
  unfold Obligations.TablesFollowTheRecurrence
  refine ⟨rfl, fun i _ => apow_succ i, (apow_succ 254).symm, rfl, fun a ha => ?_⟩
  obtain ⟨i, hlog, hi, rfl⟩ := gfLog_of_ne_zero ha
  refine ⟨i, hi, hlog, rfl, fun j hj hij => ?_⟩
  rwa [apow_eq_apow_iff, Nat.mod_eq_of_lt hj, Nat.mod_eq_of_lt hi] at hij

/-! ## The polynomial product and multiplication by alpha are linear -/

/-- A function on bytes that distributes over exclusive-or, the addition of the field (40_gf256.md R108). -/
def XorLinear (f : Byte → Byte) : Prop := ∀ x y, f (x ^^^ y) = f x ^^^ f y

/-- A mask put in by one test and again by another stays exactly when the tests differ. -/
theorem ite_xor_same_mask {w : Nat} (p q : Bool) (c d m : BitVec w) :
    (if p then c ^^^ m else c) ^^^ (if q then d ^^^ m else d) = if p ^^ q then c ^^^ d ^^^ m else c ^^^ d := by
  have cancel : c ^^^ m ^^^ (d ^^^ m) = c ^^^ d := by
    calc c ^^^ m ^^^ (d ^^^ m) = c ^^^ d ^^^ (m ^^^ m) := by ac_rfl
      _ = c ^^^ d := by simp
  cases p <;> cases q <;> simp [cancel, BitVec.xor_assoc, BitVec.xor_comm m d]

/-- Two masks put in by one test are put in together. -/
theorem ite_xor_same_test {w : Nat} (p : Bool) (c d m n : BitVec w) :
    (if p then c ^^^ m else c) ^^^ (if p then d ^^^ n else d) = if p then c ^^^ d ^^^ (m ^^^ n) else c ^^^ d := by
  cases p
  · rfl
  · simp only [if_true]; ac_rfl

/-- A fold from zero is the sum of two folds when each of its steps is. -/
theorem foldl_zero_xor {ι : Type} {w : Nat} {f g h : BitVec w → ι → BitVec w}
    (step : ∀ c d i, g c i ^^^ h d i = f (c ^^^ d) i) (l : List ι) :
    l.foldl f 0 = l.foldl g 0 ^^^ l.foldl h 0 := by
  rw [← List.foldl_hom₂ l (· ^^^ ·) g h f 0 0 step]
  simp only [BitVec.ofNat_eq_ofNat, BitVec.xor_self]

theorem carrylessProduct_xor_left (a a' b : Byte) :
    carrylessProduct (a ^^^ a') b = carrylessProduct a b ^^^ carrylessProduct a' b := by
  refine foldl_zero_xor (fun c d i => ?_) (List.range 8)
  rw [ite_xor_same_test, ← BitVec.shiftLeft_xor_distrib, ← BitVec.setWidth_xor]

theorem carrylessProduct_xor_right (a b b' : Byte) :
    carrylessProduct a (b ^^^ b') = carrylessProduct a b ^^^ carrylessProduct a b' := by
  refine foldl_zero_xor (fun c d i => ?_) (List.range 8)
  rw [ite_xor_same_mask, BitVec.getLsbD_xor]

theorem reducePolynomial_xor (c d : BitVec 16) :
    reducePolynomial (c ^^^ d) = reducePolynomial c ^^^ reducePolynomial d := by
  unfold reducePolynomial
  rw [← BitVec.setWidth_xor]
  refine congrArg _ (List.foldl_hom₂ _ _ _ _ _ c d fun c d i => ?_)
  rw [ite_xor_same_mask, BitVec.getLsbD_xor]

theorem polynomialProduct_xorLinear_left (b : Byte) : XorLinear (polynomialProduct · b) := fun a a' => by
  simp only [polynomialProduct, carrylessProduct_xor_left, reducePolynomial_xor]

theorem polynomialProduct_xorLinear_right (a : Byte) : XorLinear (polynomialProduct a) := fun b b' => by
  simp only [polynomialProduct, carrylessProduct_xor_right, reducePolynomial_xor]

theorem timesAlpha_xorLinear : XorLinear timesAlpha := fun v v' => by
  simp only [timesAlpha, BitVec.setWidth_xor, BitVec.shiftLeft_xor_distrib, BitVec.getLsbD_xor, ← ite_xor_same_mask]

/-! ## A linear function is known from the eight single bits -/

/-- A byte is the sum of its bits. -/
theorem xorSum_bits (b : Byte) : xorSum 8 (fun i => if b.getLsbD i then BitVec.twoPow 8 i else 0) = b := by
  revert b
  decide

namespace XorLinear

variable {f g : Byte → Byte}

theorem comp (hf : XorLinear f) (hg : XorLinear g) : XorLinear fun x => f (g x) := fun x y => by
  simp only [hg x y, hf (g x) (g y)]

theorem map_zero (hf : XorLinear f) : f 0#8 = 0#8 := by
  simpa using hf 0#8 0#8

theorem map_xorSum (hf : XorLinear f) (n : Nat) (u : Nat → Byte) : f (xorSum n u) = xorSum n fun i => f (u i) := by
  induction n with
  | zero => exact hf.map_zero
  | succ n ih => rw [xorSum_succ, hf, ih, xorSum_succ]

/-- Linear functions that agree on the single bits are the same. -/
theorem ext_bits (hf : XorLinear f) (hg : XorLinear g)
    (h : ∀ i < 8, f (BitVec.twoPow 8 i) = g (BitVec.twoPow 8 i)) (b : Byte) : f b = g b := by
  rw [← xorSum_bits b, hf.map_xorSum, hg.map_xorSum]
  refine xorSum_congr fun i hi => ?_
  split
  · exact h i hi
  · exact hf.map_zero.trans hg.map_zero.symm

end XorLinear

/-! ## The product of the tables is the polynomial product -/

@[simp] theorem polynomialProduct_zero_left (b : Byte) : polynomialProduct 0#8 b = 0#8 :=
  (polynomialProduct_xorLinear_left b).map_zero

@[simp] theorem polynomialProduct_zero_right (a : Byte) : polynomialProduct a 0#8 = 0#8 :=
  (polynomialProduct_xorLinear_right a).map_zero

theorem polynomialProduct_one_right (a : Byte) : polynomialProduct a 1 = a :=
  (polynomialProduct_xorLinear_left 1).ext_bits (g := id) (fun _ _ => rfl) (by decide) a

/-- A factor alpha can be taken out of the product: both sides are linear in each operand, so 64 products decide it. -/
theorem polynomialProduct_timesAlpha (a b : Byte) :
    polynomialProduct a (timesAlpha b) = timesAlpha (polynomialProduct a b) := by
  have bits : ∀ i < 8, ∀ j < 8,
      polynomialProduct (BitVec.twoPow 8 i) (timesAlpha (BitVec.twoPow 8 j)) =
        timesAlpha (polynomialProduct (BitVec.twoPow 8 i) (BitVec.twoPow 8 j)) := by decide
  refine ((polynomialProduct_xorLinear_right a).comp timesAlpha_xorLinear).ext_bits
    (timesAlpha_xorLinear.comp (polynomialProduct_xorLinear_right a)) (fun j hj => ?_) b
  exact (polynomialProduct_xorLinear_left _).ext_bits
    (timesAlpha_xorLinear.comp (polynomialProduct_xorLinear_left _)) (fun i hi => bits i hi j hj) a

/-- The polynomial product of two powers of alpha, by the recurrence on the second exponent. -/
theorem polynomialProduct_apow (i j : Nat) : polynomialProduct (apow i) (apow j) = apow (i + j) := by
  induction j with
  | zero => exact polynomialProduct_one_right (apow i)
  | succ j ih => rw [apow_succ, polynomialProduct_timesAlpha, ih, ← Nat.add_assoc, apow_succ]

/-- The product of the tables on powers of alpha, for exponents of any size (40_gf256.md R105, R109). -/
@[simp] theorem gmul_apow (i j : Nat) : gmul (apow i) (apow j) = apow (i + j) := by
  rw [gmul_of_log (gfLog_apow i) (gfLog_apow j), apow_eq_apow_iff, ← Nat.add_mod]

theorem gmul_eq_polynomialProduct (a b : Byte) : gmul a b = polynomialProduct a b := by
  obtain rfl | ⟨i, -, rfl⟩ := eq_zero_or_eq_apow a
  · rw [gmul_zero_left, polynomialProduct_zero_left]
  obtain rfl | ⟨j, -, rfl⟩ := eq_zero_or_eq_apow b
  · rw [gmul_zero_right, polynomialProduct_zero_right]
  · rw [gmul_apow, polynomialProduct_apow]

/-- Settles O21: `GFMUL` writes the product of the tables, which is the polynomial product. -/
theorem gfmulIsThePolynomialProduct : Obligations.GfmulIsThePolynomialProduct := by
  unfold Obligations.GfmulIsThePolynomialProduct
  intro a b s
  rw [exec_eq_effect, ← gmul_eq_polynomialProduct]
  rfl

/-! ## The laws of the field -/

theorem gmul_comm (a b : Byte) : gmul a b = gmul b a := by
  obtain rfl | ⟨i, -, rfl⟩ := eq_zero_or_eq_apow a
  · rw [gmul_zero_left, gmul_zero_right]
  obtain rfl | ⟨j, -, rfl⟩ := eq_zero_or_eq_apow b
  · rw [gmul_zero_left, gmul_zero_right]
  · rw [gmul_apow, gmul_apow, Nat.add_comm]

theorem gmul_assoc (a b c : Byte) : gmul (gmul a b) c = gmul a (gmul b c) := by
  obtain rfl | ⟨i, -, rfl⟩ := eq_zero_or_eq_apow a
  · simp only [gmul_zero_left]
  obtain rfl | ⟨j, -, rfl⟩ := eq_zero_or_eq_apow b
  · simp only [gmul_zero_left, gmul_zero_right]
  obtain rfl | ⟨k, -, rfl⟩ := eq_zero_or_eq_apow c
  · simp only [gmul_zero_right]
  · simp only [gmul_apow, Nat.add_assoc]

theorem gmul_xor_right (a b c : Byte) : gmul a (b ^^^ c) = gmul a b ^^^ gmul a c := by
  simp only [gmul_eq_polynomialProduct, polynomialProduct_xorLinear_right a b c]

theorem gmul_xor_left (a b c : Byte) : gmul (a ^^^ b) c = gmul a c ^^^ gmul b c := by
  simp only [gmul_eq_polynomialProduct, polynomialProduct_xorLinear_left c a b]

@[simp] theorem gmul_one_right (a : Byte) : gmul a 1#8 = a := by
  rw [gmul_eq_polynomialProduct]
  exact polynomialProduct_one_right a

@[simp] theorem gmul_one_left (a : Byte) : gmul 1#8 a = a := by
  rw [gmul_comm, gmul_one_right]

@[simp] theorem gmul_eq_zero_iff (a b : Byte) : gmul a b = 0#8 ↔ a = 0#8 ∨ b = 0#8 := by
  obtain rfl | ⟨i, -, rfl⟩ := eq_zero_or_eq_apow a
  · simp
  obtain rfl | ⟨j, -, rfl⟩ := eq_zero_or_eq_apow b
  · simp
  · simp

/-- Settles O22: the products of powers give the laws of multiplication, the polynomial product gives the distributive
law. -/
theorem fieldLaws : Obligations.FieldLaws := by
  unfold Obligations.FieldLaws
  exact fun a b c => ⟨gmul_eq_polynomialProduct a b, gmul_comm a b, gmul_assoc a b c, gmul_xor_right a b c,
    gmul_one_left a, gmul_eq_zero_iff a b⟩

/-! ## The inverse -/

theorem ginv_apow {e : Nat} (h : e < 255) : ginv (apow e) = some (apow (255 - e)) := by
  rw [ginv, gfLog_apow, Nat.mod_eq_of_lt h, Option.map_some]

/-- A byte times its inverse is 1 (40_gf256.md R106). -/
theorem gmul_ginv {a r : Byte} (h : ginv a = some r) : gmul a r = 1#8 := by
  obtain rfl | ⟨e, he, rfl⟩ := eq_zero_or_eq_apow a
  · simp [(ginv_eq_none_iff 0#8).2 rfl] at h
  · rw [ginv_apow he, Option.some.injEq] at h
    rw [← h, gmul_apow, Nat.add_sub_cancel' he.le]
    rfl

/-- An inverse is unique, by the associative law. -/
theorem eq_of_gmul_eq_one {a r r' : Byte} (h : gmul a r = 1#8) (h' : gmul a r' = 1#8) : r' = r := by
  calc r' = gmul (gmul a r) r' := by rw [h, gmul_one_left]
    _ = gmul r (gmul a r') := by rw [gmul_comm a r, gmul_assoc]
    _ = r := by rw [h', gmul_one_right]

theorem exec_gfinv_of_ginv {a r : Byte} (h : ginv a = some r) (s : State) :
    exec (.gfinv a) s = .next { s with res := r } := by
  simp only [exec, execGfinv, h]
  rfl

theorem exec_gfinv_zero (s : State) : exec (.gfinv 0) s = .next { s with fault := 5 } := rfl

/-- Settles O23: `α^(255-e)` is the inverse of `α^e`, by any exponent `e` below 255. -/
theorem gfinvGivesTheUniqueInverse : Obligations.GfinvGivesTheUniqueInverse := by
  unfold Obligations.GfinvGivesTheUniqueInverse
  refine ⟨fun a s ha => ?_, exec_gfinv_zero⟩
  obtain ⟨r, hr⟩ := Option.ne_none_iff_exists'.1 (mt (ginv_eq_none_iff a).1 ha)
  refine ⟨r, exec_gfinv_of_ginv hr s, gmul_ginv hr, fun r' => eq_of_gmul_eq_one (gmul_ginv hr), ?_⟩
  rintro e he rfl
  rw [ginv_apow he, Option.some.injEq] at hr
  rw [apow_mod, hr]

/-! ## The fault of an inverse of zero -/

/-- A stopped block ignores every command word (60_exceptions.md R233). -/
theorem execWord_of_fault_ne_zero {s : State} (h : s.fault ≠ 0) (w : Word) : execWord w s = .next s := by
  rcases execWord_cases w s with ⟨-, heq⟩ | ⟨h0, -⟩ | ⟨h0, -⟩
  · exact heq
  · exact absurd h0 h
  · exact absurd h0 h

/-- The decoder raises no fault but that of its operands (42_rs_decoder.md R143). -/
theorem rsdec_fault {k npar : Nat} {s t : State} (h : exec (.rsdec k npar) s = .next t) :
    t.fault = if codewordInRange k npar then s.fault else FaultCode.operandRange.bits := by
  obtain rfl := exec_eq_next_iff.1 h
  simp only [State.onBlock_toBlock, Block.effect]
  split
  · exact s.decodeCodeword_fault k npar
  · exact s.raise_fault _

/-- Settles O24: the fault of `GFINV 0` stops the block, and a decode ends with no fault or with that of its operands. -/
theorem inverseOfZeroFaults : Obligations.InverseOfZeroFaults := by
  unfold Obligations.InverseOfZeroFaults
  refine ⟨exec_gfinv_zero, fun s w => execWord_of_fault_ne_zero (by decide : (5 : BitVec 3) ≠ 0) w, ?_⟩
  intro k npar s t hs ht
  rw [rsdec_fault ht, hs]
  split <;> decide

end Sys2Proof.Machine
end

section
/-! PROOF. Polynomials over the field by their coefficients: the sum of a polynomial's terms at a power of alpha, and
what it does under sums, multiples and shifts of the coefficients. -/

namespace Sys2Proof.Machine

/-! ## Sums -/

@[simp] theorem apow_zero : apow 0 = 1#8 := rfl

theorem gmul_xorLinear (a : Byte) : XorLinear (gmul a) := gmul_xor_right a

theorem gmul_xorSum (a : Byte) (n : Nat) (f : Nat → Byte) : gmul a (xorSum n f) = xorSum n fun i => gmul a (f i) :=
  (gmul_xorLinear a).map_xorSum n f

theorem xorSum_xor (n : Nat) (f g : Nat → Byte) : (xorSum n fun i => f i ^^^ g i) = xorSum n f ^^^ xorSum n g := by
  induction n with
  | zero => exact BitVec.xor_self.symm
  | succ n ih => simp only [xorSum_succ, ih]; ac_rfl

/-! ## The value of a polynomial -/

/-- The polynomial with the coefficients `c 0` to `c (n - 1)` at `α^e`. -/
def polyValue (n : Nat) (c : Nat → Byte) (e : Nat) : Byte := xorSum n fun j => gmul (c j) (apow (e * j))

/-- The coefficients of `x` times a polynomial. -/
def shiftUp (c : Nat → Byte) (j : Nat) : Byte := if j = 0 then 0 else c (j - 1)

@[simp] theorem shiftUp_zero (c : Nat → Byte) : shiftUp c 0 = 0 := rfl

@[simp] theorem shiftUp_succ (c : Nat → Byte) (j : Nat) : shiftUp c (j + 1) = c j := rfl

theorem shiftUp_xor {c c1 c2 : Nat → Byte} {n : Nat} (h : ∀ j, j < n → c j = c1 j ^^^ c2 j) :
    ∀ j, j < n → shiftUp c j = shiftUp c1 j ^^^ shiftUp c2 j
  | 0, _ => BitVec.xor_self.symm
  | j + 1, hj => h j (Nat.lt_of_succ_lt hj)

@[simp] theorem polyValue_zero (c : Nat → Byte) (e : Nat) : polyValue 0 c e = 0 := rfl

theorem polyValue_succ (n : Nat) (c : Nat → Byte) (e : Nat) :
    polyValue (n + 1) c e = polyValue n c e ^^^ gmul (c n) (apow (e * n)) := rfl

theorem polyValue_congr {n : Nat} {c d : Nat → Byte} (h : ∀ j, j < n → c j = d j) (e : Nat) :
    polyValue n c e = polyValue n d e :=
  xorSum_congr fun j hj => by rw [h j hj]

theorem polyValue_zeros (n e : Nat) : polyValue n (fun _ => 0#8) e = 0#8 := by
  induction n with
  | zero => rfl
  | succ n ih => simp [polyValue_succ, ih]

theorem polyValue_xor (n : Nat) (c d : Nat → Byte) (e : Nat) :
    polyValue n (fun j => c j ^^^ d j) e = polyValue n c e ^^^ polyValue n d e := by
  simp only [polyValue, gmul_xor_left, xorSum_xor]

theorem polyValue_gmul (n : Nat) (a : Byte) (c : Nat → Byte) (e : Nat) :
    polyValue n (fun j => gmul a (c j)) e = gmul a (polyValue n c e) := by
  simp only [polyValue, gmul_assoc, gmul_xorSum]

theorem polyValue_shiftUp (n : Nat) (c : Nat → Byte) (e : Nat) :
    polyValue (n + 1) (shiftUp c) e = gmul (apow e) (polyValue n c e) := by
  induction n with
  | zero => simp [polyValue_succ]
  | succ n ih =>
    have term : gmul (c n) (apow (e * (n + 1))) = gmul (apow e) (gmul (c n) (apow (e * n))) := by
      rw [Nat.mul_succ, ← gmul_apow, gmul_comm _ (apow e), ← gmul_assoc, gmul_comm (c n), gmul_assoc]
    rw [polyValue_succ, ih, shiftUp_succ, term, polyValue_succ n, gmul_xor_right]

/-! ## The coefficients of a list -/

theorem coeff_of_length_le {p : List Byte} {j : Nat} (h : p.length ≤ j) : coeff p j = 0 := List.getD_eq_default _ _ h

theorem coeff_append_of_lt (p q : List Byte) {j : Nat} (h : j < p.length) : coeff (p ++ q) j = coeff p j :=
  List.getD_append _ _ _ _ h

theorem coeff_append_length (p : List Byte) (b : Byte) : coeff (p ++ [b]) p.length = b := by simp [coeff]

theorem coeff_append_zero (p : List Byte) (j : Nat) : coeff (p ++ [0]) j = coeff p j := by
  rcases Nat.lt_trichotomy j p.length with h | rfl | h
  · exact coeff_append_of_lt p [0] h
  · rw [coeff_append_length, coeff_of_length_le (Nat.le_refl _)]
  · rw [coeff_of_length_le h.le, coeff_of_length_le (by simpa using h)]

theorem coeff_zero_cons (p : List Byte) (j : Nat) : coeff (0 :: p) j = shiftUp (coeff p) j := by
  cases j <;> rfl

theorem coeff_zipWith (f : Byte → Byte → Byte) {p q : List Byte} {j : Nat} (hp : j < p.length) (hq : j < q.length) :
    coeff (List.zipWith f p q) j = f (coeff p j) (coeff q j) := by
  simp [coeff, hp, hq]

theorem coeff_take {p : List Byte} {n j : Nat} (h : j < n) : coeff (p.take n) j = coeff p j := by
  simp [coeff, h]

/-! ## Horner's rule -/

/-- Horner's rule over the coefficients from the highest down, from any start. -/
theorem foldr_horner (p : List Byte) (e : Nat) (v : Byte) :
    p.foldr (fun b s => b ^^^ gmul (apow e) s) v =
      polyValue p.length (coeff p) e ^^^ gmul (apow (e * p.length)) v := by
  induction p using List.reverseRecOn generalizing v with
  | nil => simp
  | append_singleton p b ih =>
    have low : polyValue p.length (coeff (p ++ [b])) e = polyValue p.length (coeff p) e :=
      polyValue_congr (fun j => coeff_append_of_lt p [b]) e
    have start : gmul (apow (e * p.length)) (b ^^^ gmul (apow e) v) =
        gmul b (apow (e * p.length)) ^^^ gmul (apow (e * (p.length + 1))) v := by
      rw [gmul_xor_right, gmul_comm b, ← gmul_assoc, gmul_apow, Nat.mul_succ]
    rw [List.foldr_append, List.foldr_cons, List.foldr_nil, ih, start, List.length_append, List.length_singleton,
      polyValue_succ, low, coeff_append_length, BitVec.xor_assoc]

theorem syndrome_concat (cw : List Byte) (b : Byte) (j : Nat) :
    syndrome (cw ++ [b]) j = b ^^^ gmul (apow (j + 1)) (syndrome cw j) := by
  simp only [syndrome, List.foldl_append, List.foldl_cons, List.foldl_nil]

/-- The syndrome of a word that ends in the coefficients of a polynomial, the highest first. -/
theorem syndrome_append_reverse (cw p : List Byte) (j : Nat) :
    syndrome (cw ++ p.reverse) j =
      polyValue p.length (coeff p) (j + 1) ^^^ gmul (apow ((j + 1) * p.length)) (syndrome cw j) := by
  rw [← foldr_horner, syndrome, List.foldl_append, List.foldl_reverse]
  rfl

theorem Memory.bytes_succ (m : Memory) (base n : Nat) :
    m.bytes base (n + 1) = m.bytes base n ++ [m.read (base + n)] := by
  simp [Memory.bytes, List.range_succ]

/-- A syndrome as a sum: the word as a polynomial, highest degree first, at `α^(j+1)` (42_rs_decoder.md R141). -/
theorem syndrome_bytes (m : Memory) (n j : Nat) :
    syndrome (m.bytes 0 n) j = xorSum n fun i => gmul (m.read i) (apow ((j + 1) * (n - 1 - i))) := by
  induction n with
  | zero => rfl
  | succ n ih =>
    have last : gmul (m.read n) (apow ((j + 1) * (n + 1 - 1 - n))) = m.read n := by
      rw [Nat.add_sub_cancel, Nat.sub_self, Nat.mul_zero, apow_zero, gmul_one_right]
    have raise : ∀ i, i < n → gmul (apow (j + 1)) (gmul (m.read i) (apow ((j + 1) * (n - 1 - i)))) =
        gmul (m.read i) (apow ((j + 1) * (n + 1 - 1 - i))) := fun i hi => by
      rw [gmul_comm, gmul_assoc, gmul_apow, ← Nat.mul_succ, show (n - 1 - i).succ = n + 1 - 1 - i by omega]
    rw [Memory.bytes_succ, Nat.zero_add, syndrome_concat, ih, gmul_xorSum, xorSum_congr raise, xorSum_succ, last,
      BitVec.xor_comm]

end Sys2Proof.Machine
end

section
/-! PROOF. The polynomials of the encoder, by their coefficients: the generator polynomial and its roots
(41_rs_encoder.md R121), the shift register as a remainder modulo the generator (R122), and its linearity (R125). -/

namespace Sys2Proof.Machine

/-! ## The generator polynomial -/

/-- The coefficients of `g(x) * (x + r)` (41_rs_encoder.md R121). -/
theorem coeff_timesRoot (g : List Byte) (r : Byte) (j : Nat) :
    coeff (timesRoot g r) j = shiftUp (coeff g) j ^^^ gmul r (coeff g j) := by
  have scaled : g.map (gmul · r) = polyScale r g := List.map_congr_left fun a _ => gmul_comm a r
  rcases Nat.lt_or_ge j (g.length + 1) with h | h
  · rw [timesRoot, scaled, coeff_zipWith _ (by simpa using h) (by simpa [polyScale] using h), coeff_zero_cons,
      coeff_append_zero, coeff_polyScale]
  · obtain ⟨i, rfl⟩ : ∃ i, j = i + 1 := ⟨j - 1, by omega⟩
    rw [coeff_of_length_le (by simpa using h), shiftUp_succ, coeff_of_length_le (Nat.le_of_succ_le_succ h),
      coeff_of_length_le (Nat.le_of_succ_le h)]
    simp

theorem coeff_generatorPolynomial_succ (n j : Nat) :
    coeff (generatorPolynomial (n + 1)) j =
      shiftUp (coeff (generatorPolynomial n)) j ^^^ gmul (apow (n + 1)) (coeff (generatorPolynomial n) j) :=
  coeff_timesRoot _ _ j

theorem coeff_generatorPolynomial_above {n j : Nat} (h : n < j) : coeff (generatorPolynomial n) j = 0 :=
  coeff_of_length_le (by rw [length_generatorPolynomial]; exact h)

/-- The generator polynomial is monic of degree `npar`. -/
theorem coeff_generatorPolynomial_self (n : Nat) : coeff (generatorPolynomial n) n = 1 := by
  induction n with
  | zero => rfl
  | succ n ih =>
    rw [coeff_generatorPolynomial_succ, shiftUp_succ, ih, coeff_generatorPolynomial_above (Nat.lt_succ_self n)]
    simp

/-- The constant coefficient is the product of the roots (41_rs_encoder.md R121). -/
theorem coeff_generatorPolynomial_zero (n : Nat) : coeff (generatorPolynomial n) 0 = apow (n * (n + 1) / 2) := by
  induction n with
  | zero => rfl
  | succ n ih =>
    have exponent : (n + 1) * (n + 1 + 1) / 2 = n + 1 + n * (n + 1) / 2 := by
      have := Nat.triangle_succ (n + 1)
      simp only [Nat.add_sub_cancel] at this
      rw [Nat.mul_comm, this, Nat.mul_comm n, Nat.add_comm]
    rw [coeff_generatorPolynomial_succ, ih, gmul_apow, ← exponent, shiftUp_zero]
    exact BitVec.zero_xor

/-- One factor more: the value at `α^e` is multiplied by `α^e + α^(n+1)`. -/
theorem generatorValue_succ (n e : Nat) :
    polyValue (n + 2) (coeff (generatorPolynomial (n + 1))) e =
      gmul (apow e ^^^ apow (n + 1)) (polyValue (n + 1) (coeff (generatorPolynomial n)) e) := by
  have top : polyValue (n + 2) (coeff (generatorPolynomial n)) e =
      polyValue (n + 1) (coeff (generatorPolynomial n)) e := by
    rw [polyValue_succ (n + 1), coeff_generatorPolynomial_above (Nat.lt_succ_self n)]
    simp
  rw [polyValue_congr (fun j _ => coeff_generatorPolynomial_succ n j), polyValue_xor, polyValue_shiftUp, polyValue_gmul,
    top, gmul_xor_left]

/-- The roots of the generator polynomial are `α^1` to `α^npar` (41_rs_encoder.md R121). -/
theorem generatorValue_eq_zero {n e : Nat} (h1 : 1 ≤ e) (hn : e ≤ n) :
    polyValue (n + 1) (coeff (generatorPolynomial n)) e = 0 := by
  induction n with
  | zero => omega
  | succ n ih =>
    rw [generatorValue_succ]
    refine (gmul_eq_zero_iff _ _).2 ?_
    rcases Nat.lt_or_eq_of_le hn with hlt | rfl
    · exact .inr (ih (by omega))
    · exact .inl BitVec.xor_self

/-! ## The shift register -/

/-- The feedback byte of a payload byte `b` (41_rs_encoder.md R122). -/
def feedback (par : List Byte) (b : Byte) : Byte := b ^^^ coeff par (par.length - 1)

/-- Each register takes its lower neighbour and the feedback times its coefficient (41_rs_encoder.md R122). -/
theorem coeff_lfsrStep {gen par : List Byte} {b : Byte} {j : Nat} (hg : par.length ≤ gen.length) (hj : j < par.length) :
    coeff (lfsrStep gen par b) j = shiftUp (coeff par) j ^^^ gmul (feedback par b) (coeff gen j) := by
  have top : par.getLastD 0 = coeff par (par.length - 1) := by
    rw [List.getLastD_eq_getLast?, List.getLast?_eq_getElem?, coeff, List.getD_eq_getElem?_getD]
  rw [lfsrStep, coeff_zipWith _ (by simp only [List.length_cons]; omega) (by simp only [List.length_take]; omega),
    coeff_zero_cons, coeff_take hj, gmul_comm, feedback, ← top]

theorem coeff_lfsr_nil (gen : List Byte) (npar j : Nat) : coeff (lfsr gen npar []) j = 0#8 := by
  simp only [coeff, lfsr, List.foldl_nil, List.getD_eq_getElem?_getD, List.getElem?_replicate]
  split <;> rfl

theorem lfsr_concat (gen : List Byte) (npar : Nat) (payload : List Byte) (b : Byte) :
    lfsr gen npar (payload ++ [b]) = lfsrStep gen (lfsr gen npar payload) b := by
  simp only [lfsr, List.foldl_append, List.foldl_cons, List.foldl_nil]

/-- One byte through the register of a generator with the root `α^e`: the value of the register at the root is
multiplied by the root, and the byte comes in at degree `n + 1`. -/
theorem lfsrStep_value {gen par : List Byte} {n e : Nat} (hlen : par.length = n + 1)
    (hg : n + 1 ≤ gen.length) (hmonic : coeff gen (n + 1) = 1) (hroot : polyValue (n + 2) (coeff gen) e = 0)
    (b : Byte) :
    polyValue (n + 1) (coeff (lfsrStep gen par b)) e =
      gmul (apow e) (polyValue (n + 1) (coeff par) e) ^^^ gmul b (apow (e * (n + 1))) := by
  have low : polyValue (n + 1) (coeff gen) e = apow (e * (n + 1)) := by
    rw [polyValue_succ, hmonic] at hroot
    simpa using hroot
  have step : polyValue (n + 1) (coeff (lfsrStep gen par b)) e =
      gmul (apow e) (polyValue n (coeff par) e) ^^^ gmul (b ^^^ coeff par n) (apow (e * (n + 1))) := by
    rw [polyValue_congr fun j hj => coeff_lfsrStep (hlen ▸ hg) (hlen ▸ hj), polyValue_xor, polyValue_shiftUp,
      polyValue_gmul, low, feedback, hlen, Nat.add_sub_cancel]
  have old : gmul (apow e) (polyValue (n + 1) (coeff par) e) =
      gmul (apow e) (polyValue n (coeff par) e) ^^^ gmul (coeff par n) (apow (e * (n + 1))) := by
    rw [polyValue_succ, gmul_xor_right, gmul_comm (apow e) (gmul _ _), gmul_assoc, gmul_apow, ← Nat.mul_succ]
  rw [step, old, gmul_xor_left, BitVec.xor_assoc, BitVec.xor_comm (gmul b _)]

/-- At a root of the generator the register has the value of the payload times `x^npar`: it is the remainder
(41_rs_encoder.md R122). -/
theorem lfsr_value {npar e : Nat} (h1 : 1 ≤ e) (he : e ≤ npar) (payload : List Byte) :
    polyValue npar (coeff (lfsr (generatorPolynomial npar) npar payload)) e =
      gmul (apow (e * npar)) (syndrome payload (e - 1)) := by
  obtain ⟨n, rfl⟩ : ∃ n, npar = n + 1 := ⟨npar - 1, by omega⟩
  induction payload using List.reverseRecOn with
  | nil =>
    rw [polyValue_congr fun j _ => coeff_lfsr_nil _ _ j, polyValue_zeros]
    exact (gmul_zero_right _).symm
  | append_singleton payload b ih =>
    rw [lfsr_concat, lfsrStep_value (length_lfsr_generator _ _) (by simp) (coeff_generatorPolynomial_self _)
      (generatorValue_eq_zero h1 he), ih, syndrome_concat, Nat.sub_add_cancel h1, gmul_xor_right, BitVec.xor_comm,
      gmul_comm b, ← gmul_assoc, gmul_comm (apow e), gmul_assoc]

/-- The word of the payload and its parity vanishes at the roots of the generator (41_rs_encoder.md R126). -/
theorem syndrome_encoded {npar j : Nat} (h : j < npar) (payload : List Byte) :
    syndrome (payload ++ (lfsr (generatorPolynomial npar) npar payload).reverse) j = 0 := by
  rw [syndrome_append_reverse, length_lfsr_generator, lfsr_value (Nat.le_add_left 1 j) h, Nat.add_sub_cancel]
  exact BitVec.xor_self

/-! ## Linearity -/

/-- Of three payloads of which the third is the sum of the others, the third register is the sum of the others
(41_rs_encoder.md R125). -/
theorem coeff_lfsr_xor {m1 m2 m3 : Memory} {npar k : Nat} (h : ∀ i, i < k → m3.read i = m1.read i ^^^ m2.read i) :
    ∀ j, j < npar → coeff (lfsr (generatorPolynomial npar) npar (m3.bytes 0 k)) j =
      coeff (lfsr (generatorPolynomial npar) npar (m1.bytes 0 k)) j ^^^
        coeff (lfsr (generatorPolynomial npar) npar (m2.bytes 0 k)) j := by
  induction k with
  | zero => simp [Memory.bytes, coeff_lfsr_nil]
  | succ k ih =>
    intro j hj
    have old := ih fun i hi => h i (Nat.lt_succ_of_lt hi)
    simp only [Memory.bytes_succ, Nat.zero_add, lfsr_concat]
    rw [coeff_lfsrStep (by simp) (by simpa), coeff_lfsrStep (by simp) (by simpa), coeff_lfsrStep (by simp) (by simpa)]
    simp only [feedback, length_lfsr_generator, h k (Nat.lt_succ_self k), old (npar - 1) (by omega),
      shiftUp_xor old j hj, gmul_xor_left]
    ac_rfl

end Sys2Proof.Machine
end

section
/-! PROOF. `RSENC`, and the coding commands after it: the codeword in `DBUF` is the payload and the register read from
its top (41_rs_encoder.md R123), and what the polynomials say of it. -/

namespace Sys2Proof.Machine

/-! ## The coding commands on their operands -/

theorem codewordInRange_eq_false {k npar : Nat} (h : npar = 0 ∨ 255 < k + npar) : codewordInRange k npar = false := by
  rw [Bool.eq_false_iff, ne_eq, codewordInRange_iff]
  omega

/-- Settles O13: the three commands share the range check. -/
theorem codewordOutOfRangeFaults : Obligations.CodewordOutOfRangeFaults := by
  unfold Obligations.CodewordOutOfRangeFaults
  intro k npar s h
  simp only [exec, execRsenc, execRssyn, execRsdec, codewordInRange_eq_false h]
  exact ⟨rfl, rfl, rfl⟩

/-- A command has one next state. -/
theorem next_unique {o : Host.Outcome State Fault Refusal} {s t : State} (hs : o = .next s) (ht : o = .next t) :
    s = t :=
  Host.Outcome.next.inj (hs.symm.trans ht)

section InRange

variable {k npar : Nat} (h0 : npar ≠ 0) (hn : k + npar ≤ 255)
include h0 hn

theorem exec_rsenc (s : State) :
    exec (.rsenc k npar) s = .next (s.onBlock fun c => (c.encodePayload k npar).setResult .ok) :=
  if_pos ((codewordInRange_iff k npar).2 ⟨h0, hn⟩)

theorem exec_rssyn (s : State) : exec (.rssyn k npar) s = .next (s.onBlock (·.computeSyndromes k npar)) :=
  if_pos ((codewordInRange_iff k npar).2 ⟨h0, hn⟩)

theorem exec_rsdec (s : State) : exec (.rsdec k npar) s = .next (s.onBlock (·.decodeCodeword k npar)) :=
  if_pos ((codewordInRange_iff k npar).2 ⟨h0, hn⟩)

end InRange

/-! ## The arrays after the encoder -/

theorem Memory.read_ofBytes_eq_coeff (bs : List Byte) (j : Nat) : (Memory.ofBytes bs).read j = coeff bs j :=
  Memory.read_ofBytes bs j

theorem coeff_reverse (p : List Byte) {j : Nat} (h : j < p.length) :
    coeff p.reverse j = coeff p (p.length - 1 - j) := by
  rw [coeff, coeff, List.getD_eq_getElem?_getD, List.getD_eq_getElem?_getD, List.getElem?_reverse h]

theorem Memory.bytes_add (m : Memory) (base n n' : Nat) :
    m.bytes base (n + n') = m.bytes base n ++ m.bytes (base + n) n' := by
  simp [Memory.bytes, List.range_add, Nat.add_assoc]

/-- Bytes written are the bytes read back. -/
theorem Memory.bytes_writeBytes (m : Memory) (base : Nat) (bs : List Byte) :
    (m.writeBytes base bs).bytes base bs.length = bs := by
  refine List.ext_getElem (by simp) fun i hi hb => ?_
  rw [← List.getD_eq_getElem _ 0 hi, ← List.getD_eq_getElem _ 0 hb, Memory.getD_bytes _ hb,
    Memory.read_writeBytes_in _ hb]

/-- Bytes written twice are written once, in an array in canonical form. -/
theorem Memory.writeBytes_writeBytes_same {m : Memory} (h : m.wf = true) (base : Nat) (bs : List Byte) :
    (m.writeBytes base bs).writeBytes base bs = m.writeBytes base bs := by
  have hw := Memory.wf_writeBytes h base bs
  refine Memory.ext_read (Memory.wf_writeBytes hw base bs) hw fun i => ?_
  simp only [Memory.read_writeBytes]
  split <;> rfl

namespace Block

variable (s : Block) {k npar : Nat}

/-- The payload and the bytes above the codeword stay (41_rs_encoder.md R123). -/
theorem encodePayload_read_outside {i : Nat} (h : i < k ∨ k + npar ≤ i) :
    (s.encodePayload k npar).dbuf.read i = s.dbuf.read i := by
  rw [encodePayload_read, if_neg (by omega)]

/-- The parity bytes are the register from its top (41_rs_encoder.md R123). -/
theorem encodePayload_read_parity {i : Nat} (h : i < npar) :
    (s.encodePayload k npar).dbuf.read (k + i) =
      coeff (lfsr (generatorPolynomial npar) npar (s.dbuf.bytes 0 k)) (npar - 1 - i) := by
  have reversed := coeff_reverse (lfsr (generatorPolynomial npar) npar (s.dbuf.bytes 0 k)) (j := i) (by simpa using h)
  rw [length_lfsr_generator] at reversed
  rw [encodePayload_read, if_pos (by omega), Nat.add_sub_cancel_left]
  exact reversed

theorem encodePayload_payload : (s.encodePayload k npar).dbuf.bytes 0 k = s.dbuf.bytes 0 k :=
  List.map_congr_left fun i hi => s.encodePayload_read_outside (.inl (by simpa using hi))

/-- The encoded word: the payload, then the register from its top (41_rs_encoder.md R123). -/
theorem encodePayload_codeword :
    (s.encodePayload k npar).dbuf.bytes 0 (k + npar) =
      s.dbuf.bytes 0 k ++ (lfsr (generatorPolynomial npar) npar (s.dbuf.bytes 0 k)).reverse := by
  have parity := s.dbuf.bytes_writeBytes k (lfsr (generatorPolynomial npar) npar (s.dbuf.bytes 0 k)).reverse
  rw [List.length_reverse, length_lfsr_generator] at parity
  rw [Memory.bytes_add, encodePayload_payload, Nat.zero_add, encodePayload_dbuf, parity]

/-- Every syndrome of the encoded word is zero (41_rs_encoder.md R126). -/
theorem encodePayload_syndrome {j : Nat} (h : j < npar) :
    syndrome ((s.encodePayload k npar).dbuf.bytes 0 (k + npar)) j = 0 := by
  rw [encodePayload_codeword, syndrome_encoded h]

/-- The syndromes of the encoded word leave `SYNNZ` = 0 (41_rs_encoder.md R126, 42_rs_decoder.md R142). -/
theorem encodePayload_synnz_zero (c : ResultCode) :
    (((s.encodePayload k npar).setResult c).computeSyndromes k npar).synnz = 0 :=
  (computeSyndromes_synnz _ k npar).2 fun _ hj => s.encodePayload_syndrome hj

/-- `SYN` after the syndromes are computed (42_rs_decoder.md R141). -/
theorem computeSyndromes_read (k npar j : Nat) :
    (s.computeSyndromes k npar).syn.read j = if j < npar then syndrome (s.dbuf.bytes 0 (k + npar)) j else 0 := by
  rw [computeSyndromes_syn, Memory.read_ofBytes]
  split <;> rename_i h <;> simp [syndromes, h]

theorem encodePayload_eq_update (k npar : Nat) :
    s.encodePayload k npar =
      { s with
        gen := Memory.ofBytes (generatorPolynomial npar)
        par := Memory.ofBytes (lfsr (generatorPolynomial npar) npar (s.dbuf.bytes 0 k))
        dbuf := s.dbuf.writeBytes k (lfsr (generatorPolynomial npar) npar (s.dbuf.bytes 0 k)).reverse } := rfl

/-- The encoder run again finds the same payload and writes the same bytes (41_rs_encoder.md R125). -/
theorem encodePayload_encodePayload (h : s.dbuf.wf = true) :
    (s.encodePayload k npar).encodePayload k npar = s.encodePayload k npar := by
  rw [encodePayload_eq_update (s.encodePayload k npar), encodePayload_payload, encodePayload_dbuf,
    Memory.writeBytes_writeBytes_same h]
  rfl

end Block

/-! ## The statements -/

/-- Settles O31: the parity bytes are written in their range, and the generator is monic of degree `npar`. -/
theorem rsencAppendsTheParity : Obligations.RsencAppendsTheParity := by
  unfold Obligations.RsencAppendsTheParity
  intro k npar s h0 hn
  refine ⟨_, exec_rsenc h0 hn s, rfl, fun i => s.encodePayload_read_outside, fun i hi => ?_, fun j hj => ?_, ?_,
    fun j hj => ?_⟩
  · rw [State.onBlock_toBlock, Block.setResult_dbuf, Block.setResult_par, Block.encodePayload_par,
      Memory.read_ofBytes_eq_coeff]
    exact s.encodePayload_read_parity hi
  · exact (Memory.read_ofBytes_eq_coeff _ j).trans (coeff_of_length_le (by simpa))
  · exact (Memory.read_ofBytes_eq_coeff _ npar).trans (coeff_generatorPolynomial_self npar)
  · exact (Memory.read_ofBytes_eq_coeff _ j).trans (coeff_generatorPolynomial_above hj)

/-- The generator polynomial is what `RSENC` leaves in `GEN` (41_rs_encoder.md R121). -/
theorem gen_of_exec_rsenc {k npar : Nat} (h0 : npar ≠ 0) (hn : k + npar ≤ 255) {s t : State}
    (ht : exec (.rsenc k npar) s = .next t) (j : Nat) : t.gen.read j = coeff (generatorPolynomial npar) j := by
  obtain rfl := next_unique (exec_rsenc h0 hn s) ht
  exact Memory.read_ofBytes_eq_coeff _ j

/-- Settles O32: by the recurrence of the generator's coefficients and of its values. -/
theorem generatorPolynomialHasItsRoots : Obligations.GeneratorPolynomialHasItsRoots := by
  unfold Obligations.GeneratorPolynomialHasItsRoots
  constructor
  · intro k npar s t h0 hn ht
    have gen := gen_of_exec_rsenc h0 hn ht
    have constant := (gen 0).trans (coeff_generatorPolynomial_zero npar)
    refine ⟨constant, constant ▸ apow_ne_zero _, fun i h1 hi => ?_⟩
    simp only [gen]
    exact generatorValue_eq_zero h1 hi
  · intro k npar s t u h0 hn ht hu j
    rw [gen_of_exec_rsenc (Nat.succ_ne_zero _) hn hu, gen_of_exec_rsenc h0 (by omega) ht,
      gen_of_exec_rsenc h0 (by omega) ht, coeff_generatorPolynomial_succ, gmul_comm]
    rfl

/-- Settles O33: the register is the remainder of the payload, so the word vanishes at the roots of the generator. -/
theorem encodedWordHasZeroSyndromes : Obligations.EncodedWordHasZeroSyndromes := by
  unfold Obligations.EncodedWordHasZeroSyndromes
  intro k npar s t u h0 hn ht hu
  obtain rfl := next_unique (exec_rsenc h0 hn s) ht
  obtain rfl := next_unique (exec_rssyn h0 hn _) hu
  refine ⟨fun j h1 hj => ?_, s.encodePayload_synnz_zero .ok, fun j => ?_⟩
  · obtain ⟨i, rfl⟩ : ∃ i, j = i + 1 := ⟨j - 1, by omega⟩
    exact (syndrome_bytes _ _ i).symm.trans (s.encodePayload_syndrome hj)
  · refine (Block.computeSyndromes_read _ k npar j).trans ?_
    split
    · exact s.encodePayload_syndrome ‹_›
    · rfl

/-- Settles O34: the register is linear in the payload. -/
theorem encoderIsLinear : Obligations.EncoderIsLinear := by
  unfold Obligations.EncoderIsLinear
  intro k npar s1 s2 s3 t1 t2 t3 h0 hn hs ht1 ht2 ht3 i hi
  obtain rfl := next_unique (exec_rsenc h0 hn s1) ht1
  obtain rfl := next_unique (exec_rsenc h0 hn s2) ht2
  obtain rfl := next_unique (exec_rsenc h0 hn s3) ht3
  simp only [State.onBlock_toBlock, Block.setResult_dbuf, Block.encodePayload_read_parity _ hi]
  exact coeff_lfsr_xor hs _ (by omega)

/-- Settles O35: the second run finds the same payload, and writes what is there. -/
theorem rsencTwiceIsOnce : Obligations.RsencTwiceIsOnce := by
  unfold Obligations.RsencTwiceIsOnce
  intro k npar s t hwf h0 hn ht
  obtain rfl := next_unique (exec_rsenc h0 hn s) ht
  rw [exec_rsenc h0 hn]
  exact congrArg (fun c => Host.Outcome.next (s.onBlock fun _ => c.setResult .ok)) (s.encodePayload_encodePayload hwf)

/-- Settles O42: with every syndrome zero the decoder ends at its first test (42_rs_decoder.md R143). -/
theorem cleanCodewordIsAccepted : Obligations.CleanCodewordIsAccepted := by
  unfold Obligations.CleanCodewordIsAccepted
  intro k npar s t u h0 hn ht hu
  obtain rfl := next_unique (exec_rsenc h0 hn s) ht
  obtain rfl := next_unique (exec_rsdec h0 hn _) hu
  have clean := s.encodePayload_synnz_zero (k := k) (npar := npar) .ok
  rcases Block.decodeCodeword_cases ((s.encodePayload k npar).setResult .ok) k npar with ⟨-, accepted⟩ | ⟨nonzero, -⟩
  · simp only [State.onBlock_toBlock, accepted]
    exact ⟨rfl, clean, rfl, rfl⟩
  · exact absurd clean nonzero

end Sys2Proof.Machine
end

section
/-! PROOF. Sums and products of power series over the field: the coefficients of a product, the quotient by `1 + α^l x`,
and how many roots and how many terms a polynomial has. -/

namespace Sys2Proof.Machine

/-! ## Sums rearranged -/

/-- The first term taken out. -/
theorem xorSum_succ_front (n : Nat) (f : Nat → Byte) : xorSum (n + 1) f = f 0 ^^^ xorSum n fun i => f (i + 1) := by
  induction n with
  | zero => exact BitVec.xor_comm _ _
  | succ n ih => rw [xorSum_succ, ih, xorSum_succ, BitVec.xor_assoc]

theorem xorSum_zeros (n : Nat) : (xorSum n fun _ => 0#8) = 0#8 := by
  induction n with
  | zero => rfl
  | succ n ih => rw [xorSum_succ, ih, BitVec.xor_self]

/-- Terms above the last nonzero one add nothing. -/
theorem xorSum_extend {m n : Nat} {f : Nat → Byte} (hmn : m ≤ n) (h : ∀ i, m ≤ i → f i = 0) :
    xorSum n f = xorSum m f := by
  induction n, hmn using Nat.le_induction with
  | base => rfl
  | succ n hn ih => rw [xorSum_succ, ih, h n hn]; exact BitVec.xor_zero

/-- A sum with one nonzero term. -/
theorem xorSum_eq_single {n l : Nat} {f : Nat → Byte} (hl : l < n) (h : ∀ i, i < n → i ≠ l → f i = 0) :
    xorSum n f = f l := by
  induction n with
  | zero => omega
  | succ n ih =>
    rcases Nat.lt_or_eq_of_le (Nat.le_of_lt_succ hl) with hlt | rfl
    · rw [xorSum_succ, ih hlt fun i hi => h i (by omega), h n (by omega) (by omega)]
      exact BitVec.xor_zero
    · rw [xorSum_succ, xorSum_congr fun i hi => h i (by omega) (by omega)]
      exact (congrArg (· ^^^ f l) (xorSum_zeros l)).trans BitVec.zero_xor

/-- Two sums change places. -/
theorem xorSum_comm (n m : Nat) (f : Nat → Nat → Byte) :
    (xorSum n fun i => xorSum m fun j => f i j) = xorSum m fun j => xorSum n fun i => f i j := by
  induction n with
  | zero => exact (xorSum_zeros m).symm
  | succ n ih => simp only [xorSum_succ, ih, xorSum_xor]

theorem xorSum_gmul (n : Nat) (f : Nat → Byte) (a : Byte) : gmul (xorSum n f) a = xorSum n fun i => gmul (f i) a := by
  simp only [gmul_comm _ a, gmul_xorSum]

/-! ## The coefficients of a product of power series -/

/-- The coefficient of `x^j` in the product of two power series. -/
def productCoeff (p s : Nat → Byte) (j : Nat) : Byte := xorSum (j + 1) fun i => gmul (p i) (s (j - i))

theorem productCoeff_congr {p q s t : Nat → Byte} {j : Nat} (hp : ∀ i, i ≤ j → p i = q i)
    (hs : ∀ i, i ≤ j → s i = t i) :
    productCoeff p s j = productCoeff q t j :=
  xorSum_congr fun i hi => by rw [hp i (by omega), hs (j - i) (by omega)]

/-- The product is linear in its first factor. -/
theorem productCoeff_add_gmul (p q s : Nat → Byte) (a : Byte) (j : Nat) :
    productCoeff (fun i => p i ^^^ gmul a (q i)) s j = productCoeff p s j ^^^ gmul a (productCoeff q s j) := by
  simp only [productCoeff, gmul_xor_left, xorSum_xor, gmul_assoc, gmul_xorSum]

theorem productCoeff_gmul (p s : Nat → Byte) (a : Byte) (j : Nat) :
    productCoeff (fun i => gmul a (p i)) s j = gmul a (productCoeff p s j) := by
  simp only [productCoeff, gmul_assoc, gmul_xorSum]

theorem productCoeff_shiftUp (p s : Nat → Byte) (j : Nat) :
    productCoeff (shiftUp p) s (j + 1) = productCoeff p s j := by
  have first : gmul (shiftUp p 0) (s (j + 1 - 0)) = 0#8 := gmul_zero_left _
  rw [productCoeff, xorSum_succ_front, first, BitVec.zero_xor]
  exact xorSum_congr fun i _ => by rw [shiftUp_succ, Nat.add_sub_add_right]

/-- The product with a polynomial of degree at most `d`. -/
theorem productCoeff_of_degree_le {p : Nat → Byte} {d j : Nat} (hd : ∀ i, d < i → p i = 0) (hj : d ≤ j)
    (s : Nat → Byte) : productCoeff p s j = xorSum (d + 1) fun i => gmul (p i) (s (j - i)) :=
  xorSum_extend (Nat.succ_le_succ hj) fun i hi => by rw [hd i hi]; exact gmul_zero_left _

/-- Coefficients above the degree do not change a value. -/
theorem polyValue_eq_of_zero_above {p : Nat → Byte} {d n : Nat} (hd : ∀ i, d ≤ i → p i = 0) (hn : d ≤ n) (e : Nat) :
    polyValue n p e = polyValue d p e :=
  xorSum_extend hn fun i hi => by rw [hd i hi]; exact gmul_zero_left _

/-! ## The quotient by `1 + α^l x` -/

/-- The coefficient of `x^j` in `p(x) / (1 + α^l x)`: the product with the geometric series of `α^l`. -/
def quotientCoeff (p : Nat → Byte) (l j : Nat) : Byte := productCoeff p (fun i => apow (l * i)) j

theorem quotientCoeff_zero (p : Nat → Byte) (l : Nat) : quotientCoeff p l 0 = p 0 := by
  simp [quotientCoeff, productCoeff, xorSum]

theorem quotientCoeff_succ (p : Nat → Byte) (l j : Nat) :
    quotientCoeff p l (j + 1) = gmul (apow l) (quotientCoeff p l j) ^^^ p (j + 1) := by
  have last : gmul (p (j + 1)) (apow (l * (j + 1 - (j + 1)))) = p (j + 1) := by simp
  rw [quotientCoeff, productCoeff, xorSum_succ, last, quotientCoeff, productCoeff, gmul_xorSum]
  refine congrArg (· ^^^ p (j + 1)) (xorSum_congr fun i hi => ?_)
  rw [gmul_comm (apow l), gmul_assoc, gmul_apow, ← Nat.mul_succ, show j + 1 - i = (j - i).succ by omega]

/-- Multiplying back by `1 + α^l x`. -/
theorem eq_quotientCoeff_xor_shiftUp (p : Nat → Byte) (l j : Nat) :
    p j = quotientCoeff p l j ^^^ gmul (apow l) (shiftUp (quotientCoeff p l) j) := by
  cases j with
  | zero =>
    rw [quotientCoeff_zero, shiftUp_zero, show gmul (apow l) 0 = 0 from gmul_zero_right _]
    exact BitVec.xor_zero.symm
  | succ j =>
    rw [shiftUp_succ, quotientCoeff_succ, BitVec.xor_comm, ← BitVec.xor_assoc, BitVec.xor_self, BitVec.zero_xor]

theorem apow_255 : apow 255 = 1#8 := rfl

/-- Division by `1 + α^l x` evaluates the polynomial at the inverse of `α^l`. -/
theorem quotientCoeff_value (p : Nat → Byte) {l : Nat} (hl : l ≤ 255) (j : Nat) :
    gmul (quotientCoeff p l j) (apow ((255 - l) * j)) = polyValue (j + 1) p (255 - l) := by
  induction j with
  | zero => rw [quotientCoeff_zero, polyValue_succ, polyValue_zero]; exact BitVec.zero_xor.symm
  | succ j ih =>
    have exponent : l + (255 - l) * (j + 1) = (255 - l) * j + 255 * 1 := by rw [Nat.mul_succ]; omega
    rw [quotientCoeff_succ, gmul_xor_left, polyValue_succ (j + 1), ← ih, gmul_comm (apow l), gmul_assoc, gmul_apow,
      exponent, apow_add_mul_255]

theorem quotientCoeff_eq_zero_iff (p : Nat → Byte) {l : Nat} (hl : l ≤ 255) (j : Nat) :
    quotientCoeff p l j = 0 ↔ polyValue (j + 1) p (255 - l) = 0 := by
  rw [← quotientCoeff_value p hl]
  simp

/-- From the degree on the quotient is a geometric series. -/
theorem quotientCoeff_add {p : Nat → Byte} {d : Nat} (hd : ∀ i, d < i → p i = 0) (l i : Nat) :
    quotientCoeff p l (d + i) = gmul (quotientCoeff p l d) (apow (l * i)) := by
  induction i with
  | zero => simp
  | succ i ih =>
    rw [← Nat.add_assoc, quotientCoeff_succ, ih, hd (d + i + 1) (by omega), gmul_comm (apow l), gmul_assoc, gmul_apow,
      ← Nat.mul_succ]
    exact BitVec.xor_zero

/-- A factor `1 + α^l x` of a polynomial with the root `α^(-l)` taken out. -/
theorem polyValue_eq_factor_gmul {p : Nat → Byte} {n l : Nat} (hl : l ≤ 255)
    (hroot : polyValue (n + 1) p (255 - l) = 0) (e : Nat) :
    polyValue (n + 1) p e = gmul (1#8 ^^^ apow (l + e)) (polyValue n (quotientCoeff p l) e) := by
  have top : quotientCoeff p l n = 0 := (quotientCoeff_eq_zero_iff p hl n).2 hroot
  rw [polyValue_congr fun j _ => eq_quotientCoeff_xor_shiftUp p l j, polyValue_xor, polyValue_gmul, polyValue_shiftUp,
    polyValue_succ n, top, ← gmul_assoc, gmul_apow, gmul_xor_left, gmul_one_left]
  exact congrArg (· ^^^ _) BitVec.xor_zero

/-- Different locations have different elements. -/
theorem one_xor_apow_ne_zero {l l' : Nat} (hl : l < 255) (hl' : l' < 255) (h : l ≠ l') :
    1#8 ^^^ apow (l + (255 - l')) ≠ 0#8 := by
  rw [ne_eq, BitVec.xor_eq_zero_iff, ← apow_zero, apow_eq_apow_iff]
  omega

/-- At the inverse of another element a root of the polynomial is one of the quotient. -/
theorem polyValue_quotientCoeff_eq_zero {p : Nat → Byte} {n l l' : Nat} (hl : l < 255) (hl' : l' < 255) (hne : l ≠ l')
    (h : polyValue (n + 1) p (255 - l) = 0) (h' : polyValue (n + 1) p (255 - l') = 0) :
    polyValue n (quotientCoeff p l) (255 - l') = 0 := by
  rw [polyValue_eq_factor_gmul hl.le h] at h'
  exact ((gmul_eq_zero_iff _ _).1 h').resolve_left (one_xor_apow_ne_zero hl hl' hne)

/-! ## The number of roots and the number of terms -/

/-- A polynomial with as many roots as coefficients is zero. -/
theorem eq_zero_of_roots {n : Nat} {p : Nat → Byte} {roots : Finset Nat}
    (h : ∀ l ∈ roots, l < 255 ∧ polyValue n p (255 - l) = 0) (hn : n ≤ roots.card) : ∀ j, j < n → p j = 0 := by
  induction n generalizing p roots with
  | zero => omega
  | succ n ih =>
    obtain ⟨l, hmem⟩ := Finset.card_pos.1 (Nat.zero_lt_of_lt hn)
    obtain ⟨hl, hroot⟩ := h l hmem
    have quotient : ∀ j, j < n → quotientCoeff p l j = 0 := by
      refine ih (roots := roots.erase l) (fun l' hl' => ?_) (by rw [Finset.card_erase_of_mem hmem]; omega)
      obtain ⟨hne, hmem'⟩ := Finset.mem_erase.1 hl'
      obtain ⟨hlt, hroot'⟩ := h l' hmem'
      exact ⟨hlt, polyValue_quotientCoeff_eq_zero hl hlt hne.symm hroot hroot'⟩
    have all : ∀ j, j < n + 1 → quotientCoeff p l j = 0 := fun j hj => by
      rcases Nat.lt_or_eq_of_le (Nat.le_of_lt_succ hj) with hlt | rfl
      · exact quotient j hlt
      · exact (quotientCoeff_eq_zero_iff p hl.le j).2 hroot
    intro j hj
    rw [eq_quotientCoeff_xor_shiftUp p l j, shiftUp_xor (c := quotientCoeff p l) (c1 := fun _ => 0) (c2 := fun _ => 0)
      (n := n + 1) (fun i hi => all i hi) j hj, all j hj]
    cases j <;> simp

/-- A polynomial with the constant coefficient 1 has at most as many roots as its degree. -/
theorem card_roots_le {n : Nat} {p : Nat → Byte} {roots : Finset Nat} (h0 : p 0 = 1)
    (h : ∀ l ∈ roots, l < 255 ∧ polyValue (n + 1) p (255 - l) = 0) : roots.card ≤ n := by
  by_contra hn
  have := eq_zero_of_roots h (by omega) 0 (Nat.succ_pos n)
  simp [h0] at this

/-- The places of the nonzero terms of a polynomial. -/
def errorSupport (n : Nat) (w : Nat → Byte) : Finset Nat := (Finset.range n).filter fun l => w l ≠ 0

@[simp] theorem mem_errorSupport {n l : Nat} {w : Nat → Byte} : l ∈ errorSupport n w ↔ l < n ∧ w l ≠ 0 := by
  simp [errorSupport]

theorem polyValue_gmul_apow (n : Nat) (w : Nat → Byte) (e : Nat) :
    polyValue n (fun l => gmul (apow l) (w l)) e = polyValue n w (e + 1) :=
  xorSum_congr fun l _ => by dsimp only; rw [gmul_comm (apow l), gmul_assoc, gmul_apow, Nat.succ_mul, Nat.add_comm l]

/-- A factor `α^l + α^l0` at each term gives two values of the polynomial in a row. -/
theorem polyValue_gmul_xor_apow (n : Nat) (w : Nat → Byte) (l0 e : Nat) :
    polyValue n (fun l => gmul (apow l ^^^ apow l0) (w l)) e =
      polyValue n w (e + 1) ^^^ gmul (apow l0) (polyValue n w e) := by
  simp only [gmul_xor_left, polyValue_xor, polyValue_gmul_apow, polyValue_gmul]

theorem errorSupport_subset {n : Nat} {v w : Nat → Byte} (h : ∀ l, w l = 0 → v l = 0) :
    errorSupport n v ⊆ errorSupport n w := by
  intro l hl
  obtain ⟨hln, hv⟩ := mem_errorSupport.1 hl
  exact mem_errorSupport.2 ⟨hln, mt (h l) hv⟩

/-- The factor `α^l + α^l0` makes the term at `l0` vanish. -/
theorem card_errorSupport_gmul_lt {n l0 : Nat} {w : Nat → Byte} (hl0 : l0 ∈ errorSupport n w) :
    (errorSupport n fun l => gmul (apow l ^^^ apow l0) (w l)).card < (errorSupport n w).card := by
  have subset := errorSupport_subset (n := n) fun l (hw : w l = 0) =>
    (gmul_eq_zero_iff (apow l ^^^ apow l0) (w l)).2 (.inr hw)
  refine Finset.card_lt_card ((Finset.ssubset_iff_of_subset subset).2 ⟨l0, hl0, fun h => ?_⟩)
  exact (mem_errorSupport.1 h).2 ((gmul_eq_zero_iff _ _).2 (.inl BitVec.xor_self))

/-- A polynomial with at most `t` nonzero terms that vanishes at `t` powers of alpha in a row is zero. The factors
that make one term vanish leave one value in the row less, so every other term is zero, and then that one too. -/
theorem eq_zero_of_values {n t e : Nat} (hn : n ≤ 255) {w : Nat → Byte} (hc : (errorSupport n w).card ≤ t)
    (h : ∀ i, i < t → polyValue n w (e + i) = 0) : ∀ l, l < n → w l = 0 := by
  induction t generalizing w with
  | zero =>
    intro l hl
    by_contra hw
    have := Finset.card_pos.2 ⟨l, mem_errorSupport.2 ⟨hl, hw⟩⟩
    omega
  | succ t ih =>
    by_contra hne
    push Not at hne
    obtain ⟨l0, hl0, hw0⟩ := hne
    have fewer := card_errorSupport_gmul_lt (mem_errorSupport.2 ⟨hl0, hw0⟩)
    have values (i : Nat) (hi : i < t) : polyValue n (fun l => gmul (apow l ^^^ apow l0) (w l)) (e + i) = 0 := by
      rw [polyValue_gmul_xor_apow, Nat.add_assoc, h (i + 1) (by omega), h i (by omega)]
      simp
    have rest : ∀ l, l < n → l ≠ l0 → w l = 0 := fun l hl hne => by
      refine ((gmul_eq_zero_iff _ _).1 (ih (by omega) values l hl)).resolve_left ?_
      rw [BitVec.xor_eq_zero_iff, apow_eq_apow_iff]
      omega
    have single : polyValue n w (e + 0) = gmul (w l0) (apow ((e + 0) * l0)) :=
      xorSum_eq_single hl0 fun l hl hne => by rw [rest l hl hne]; exact gmul_zero_left _
    rw [h 0 (Nat.succ_pos t)] at single
    exact hw0 (((gmul_eq_zero_iff _ _).1 single.symm).resolve_right (apow_ne_zero _))

end Sys2Proof.Machine
end

section
/-! PROOF. The Berlekamp-Massey solver (42_rs_decoder.md R144 to R147): what its two polynomials do to the syndromes,
and that the length it finds is at most the number of errors. -/

namespace Sys2Proof.Machine

/-! ## What an iteration keeps -/

/-- What the solver has before iteration `m`, in coefficients: `psi` of degree at most `len` has discrepancy zero at
every index from `len` to `m - 1`, and once the length has grown, `D` has discrepancy zero at `m + 1 - len` to `m - 1`
and 1 at `m`. -/
def SolverFits (syn psi d : Nat → Byte) (len m : Nat) : Prop :=
  len ≤ m ∧
  (∀ i, len < i → psi i = 0) ∧ (∀ j, len ≤ j → j < m → productCoeff psi syn j = 0) ∧
  (∀ i, m + 1 - len < i → d i = 0) ∧
  (len ≠ 0 → ∀ j, m + 1 - len ≤ j → j < m → productCoeff d syn j = 0) ∧ (len ≠ 0 → productCoeff d syn m = 1)

namespace SolverFits

variable {syn psi d : Nat → Byte} {len m : Nat} (h : SolverFits syn psi d len m)
include h

theorem len_le : len ≤ m := by
  obtain ⟨hlen, -⟩ := h
  exact hlen

theorem degree : ∀ i, len < i → psi i = 0 := by
  obtain ⟨-, hdegree, -⟩ := h
  exact hdegree

theorem fits : ∀ j, len ≤ j → j < m → productCoeff psi syn j = 0 := by
  obtain ⟨-, -, hfits, -⟩ := h
  exact hfits

theorem degree_d : ∀ i, m + 1 - len < i → d i = 0 := by
  obtain ⟨-, -, -, hdegree, -⟩ := h
  exact hdegree

theorem fits_d : len ≠ 0 → ∀ j, m + 1 - len ≤ j → j < m → productCoeff d syn j = 0 := by
  obtain ⟨-, -, -, -, hfits, -⟩ := h
  exact hfits

theorem value_d : len ≠ 0 → productCoeff d syn m = 1 := by
  obtain ⟨-, -, -, -, -, hvalue⟩ := h
  exact hvalue

/-- The discrepancy of `psi + delta D` at an index below `m` at which both have none. -/
theorem sum_fits (hlen : len ≠ 0) (delta : Byte) {j : Nat} (hj : len ≤ j) (hd : m + 1 - len ≤ j) (hm : j < m) :
    productCoeff (fun i => psi i ^^^ gmul delta (d i)) syn j = 0 := by
  rw [productCoeff_add_gmul, h.fits j hj hm, h.fits_d hlen j hd hm]
  simp

/-- The sum `psi + delta D` corrects the discrepancy `delta` of index `m`. -/
theorem sum_corrects (hlen : len ≠ 0) {delta : Byte} (hdelta : productCoeff psi syn m = delta) :
    productCoeff (fun i => psi i ^^^ gmul delta (d i)) syn m = 0 := by
  rw [productCoeff_add_gmul, hdelta, h.value_d hlen, show (1 : Byte) = 1#8 from rfl, gmul_one_right]
  exact BitVec.xor_self

theorem sum_degree (delta : Byte) {i : Nat} (hi : len < i) (hd : m + 1 - len < i) : psi i ^^^ gmul delta (d i) = 0 := by
  rw [h.degree i hi, h.degree_d i hd]
  simp

/-- An iteration that keeps the length: there is no discrepancy, or the length is more than half of `m`. -/
theorem keep {delta : Byte} (hdelta : productCoeff psi syn m = delta) (hlen : delta = 0 ∨ m < 2 * len) :
    SolverFits syn (fun i => psi i ^^^ gmul delta (d i)) (shiftUp d) len (m + 1) := by
  have hle := h.len_le
  refine ⟨by omega, fun i hi => ?_, fun j hj hm => ?_, fun i hi => ?_, fun h0 j hj hm => ?_, fun h0 => ?_⟩
  · rcases hlen with rfl | hlen
    · simp [h.degree i hi]
    · exact h.sum_degree delta hi (by omega)
  · rcases hlen with rfl | hlen
    · rw [productCoeff_add_gmul, show gmul 0 _ = 0#8 from gmul_zero_left _, BitVec.xor_zero]
      rcases Nat.lt_or_eq_of_le (Nat.le_of_lt_succ hm) with hlt | rfl
      · exact h.fits j hj hlt
      · exact hdelta
    · rcases Nat.lt_or_eq_of_le (Nat.le_of_lt_succ hm) with hlt | rfl
      · exact h.sum_fits (by omega) delta hj (by omega) hlt
      · exact h.sum_corrects (by omega) hdelta
  · obtain ⟨i, rfl⟩ : ∃ i', i = i' + 1 := ⟨i - 1, by omega⟩
    exact h.degree_d i (by omega)
  · obtain ⟨j, rfl⟩ : ∃ j', j = j' + 1 := ⟨j - 1, by omega⟩
    rw [productCoeff_shiftUp]
    exact h.fits_d h0 j (by omega) (by omega)
  · rw [productCoeff_shiftUp]
    exact h.value_d h0

/-- An iteration with a discrepancy and a length of at most half of `m`: the length grows to `m + 1 - len`, and the old
`psi`, scaled to discrepancy 1, becomes `D`. -/
theorem grow {delta dinv : Byte} (hdelta : productCoeff psi syn m = delta) (hinv : gmul delta dinv = 1)
    (hlen : 2 * len ≤ m) :
    SolverFits syn (fun i => psi i ^^^ gmul delta (d i)) (shiftUp fun i => gmul dinv (psi i)) (m + 1 - len)
      (m + 1) := by
  have hle := h.len_le
  refine ⟨by omega, fun i hi => ?_, fun j hj hm => ?_, fun i hi => ?_, fun _ j hj hm => ?_, fun _ => ?_⟩
  · exact h.sum_degree delta (by omega) hi
  · rcases Nat.lt_or_eq_of_le (Nat.le_of_lt_succ hm) with hlt | rfl
    · exact h.sum_fits (by omega) delta (by omega) hj hlt
    · exact h.sum_corrects (by omega) hdelta
  · obtain ⟨i, rfl⟩ : ∃ i', i = i' + 1 := ⟨i - 1, by omega⟩
    rw [shiftUp_succ, h.degree i (by omega)]
    exact gmul_zero_right _
  · obtain ⟨j, rfl⟩ : ∃ j', j = j' + 1 := ⟨j - 1, by omega⟩
    rw [productCoeff_shiftUp, productCoeff_gmul, h.fits j (by omega) (by omega)]
    exact gmul_zero_right _
  · rw [productCoeff_shiftUp, productCoeff_gmul, hdelta, gmul_comm, hinv]

end SolverFits

/-! ## The iteration of the model -/

theorem coeff_polyAdd_polyScale (p q : List Byte) (c : Byte) :
    coeff (polyAdd p (polyScale c q)) = fun i => coeff p i ^^^ gmul c (coeff q i) :=
  funext fun i => by rw [coeff_polyAdd, coeff_polyScale]

theorem coeff_zero_cons_eq (p : List Byte) : coeff (0x00 :: p) = shiftUp (coeff p) := funext (coeff_zero_cons p)

theorem coeff_polyScale_eq (c : Byte) (p : List Byte) : coeff (polyScale c p) = fun i => gmul c (coeff p i) :=
  funext (coeff_polyScale c p)

/-- The three ends of an update (42_rs_decoder.md R146), for a `kk` that is one less than the length. -/
theorem solverUpdate_cases {m : Nat} {v : Solver} (hk : v.kk = v.len - 1) (hl : v.len ≤ m) (delta : Byte) :
    (delta = 0 ∧ solverUpdate m delta v = v) ∨
    (m < 2 * v.len ∧ solverUpdate m delta v = { v with psi := polyAdd v.psi (polyScale delta v.d) }) ∨
    ∃ dinv, gmul delta dinv = 1 ∧ delta ≠ 0 ∧ 2 * v.len ≤ m ∧
      solverUpdate m delta v =
        { psi := polyAdd v.psi (polyScale delta v.d), d := polyScale dinv v.psi, kk := m - v.len,
          len := m + 1 - v.len } := by
  unfold solverUpdate
  split
  · exact .inl ⟨(ginv_eq_none_iff delta).1 ‹_›, rfl⟩
  · rename_i dinv hinv
    have hdelta : delta ≠ 0 := fun h => by rw [(ginv_eq_none_iff delta).2 h] at hinv; cases hinv
    dsimp only
    split
    · refine .inr (.inr ⟨dinv, gmul_ginv hinv, hdelta, by omega, ?_⟩)
      rw [show ((m : Int) - v.kk).toNat = m + 1 - v.len by omega]
    · exact .inr (.inl ⟨by omega, rfl⟩)

/-- The discrepancy of R145 is the coefficient of the product of `psi` and the syndromes. -/
theorem discrepancy_eq_productCoeff {syn : List Byte} {v : Solver} {m : Nat} {d : Nat → Byte}
    (h : SolverFits (coeff syn) (coeff v.psi) d v.len m) :
    discrepancy syn m v = productCoeff (coeff v.psi) (coeff syn) m :=
  (productCoeff_of_degree_le h.degree h.len_le _).symm

theorem solverAfter_succ (syn : List Byte) (m : Nat) :
    solverAfter syn (m + 1) =
      solverShift (solverUpdate m (discrepancy syn m (solverAfter syn m)) (solverAfter syn m)) := rfl

/-- The invariant of the iteration. -/
theorem solverAfter_fits (syn : List Byte) (m : Nat) :
    (solverAfter syn m).kk = (solverAfter syn m).len - 1 ∧
      SolverFits (coeff syn) (coeff (solverAfter syn m).psi) (coeff (solverAfter syn m).d)
        (solverAfter syn m).len m := by
  induction m with
  | zero =>
    refine ⟨rfl, ⟨Nat.le_refl 0, fun i hi => coeff_of_length_le hi, fun j _ hj => absurd hj (by omega),
      fun i hi => coeff_of_length_le hi, fun h => absurd rfl h, fun h => absurd rfl h⟩⟩
  | succ m ih =>
    rw [solverAfter_succ]
    generalize solverAfter syn m = v at ih ⊢
    obtain ⟨hk, hfits⟩ := ih
    have hle := hfits.len_le
    have hdelta := (discrepancy_eq_productCoeff hfits).symm
    rcases solverUpdate_cases hk hle (discrepancy syn m v) with ⟨h0, heq⟩ | ⟨hlen, heq⟩ | ⟨dinv, hinv, -, hlen, heq⟩
    · have kept := hfits.keep hdelta (.inl h0)
      have same : (fun i => coeff v.psi i ^^^ gmul (discrepancy syn m v) (coeff v.d i)) = coeff v.psi := by
        simp [h0]
      rw [same] at kept
      rw [heq, solverShift, coeff_zero_cons_eq]
      exact ⟨hk, kept⟩
    · rw [heq, solverShift, coeff_zero_cons_eq, coeff_polyAdd_polyScale]
      exact ⟨hk, hfits.keep hdelta (.inr hlen)⟩
    · rw [heq, solverShift, coeff_zero_cons_eq, coeff_polyAdd_polyScale, coeff_polyScale_eq]
      exact ⟨by dsimp only; omega, hfits.grow hdelta hinv hlen⟩

/-- The length grows only when there is a discrepancy. -/
theorem solverAfter_len_cases (syn : List Byte) (m : Nat) :
    (solverAfter syn (m + 1)).len = (solverAfter syn m).len ∨
      (productCoeff (coeff (solverAfter syn m).psi) (coeff syn) m ≠ 0 ∧
        (solverAfter syn (m + 1)).len = m + 1 - (solverAfter syn m).len) := by
  obtain ⟨hk, hfits⟩ := solverAfter_fits syn m
  rw [solverAfter_succ]
  rcases solverUpdate_cases hk hfits.len_le (discrepancy syn m (solverAfter syn m)) with
    ⟨-, heq⟩ | ⟨-, heq⟩ | ⟨dinv, -, h0, -, heq⟩ <;> rw [heq]
  · exact .inl rfl
  · exact .inl rfl
  · exact .inr ⟨discrepancy_eq_productCoeff hfits ▸ h0, rfl⟩

/-- The error locator has degree at most the length. -/
theorem coeff_errorLocator_of_len_lt {syn : List Byte} {npar i : Nat} (h : (solverAfter syn npar).len < i) :
    coeff (errorLocator syn npar) i = 0 := (solverAfter_fits syn npar).2.degree i h

/-! ## The length and the errors -/

/-- The product of a polynomial with the values of an error polynomial at `α^1`, `α^2`, ...: each error adds the
quotient by its own factor. -/
theorem productCoeff_polyValue (p w : Nat → Byte) (n j : Nat) :
    productCoeff p (fun i => polyValue n w (i + 1)) j =
      polyValue n (fun l => gmul (w l) (quotientCoeff p l j)) 1 := by
  simp only [productCoeff, polyValue, gmul_xorSum]
  rw [xorSum_comm]
  refine xorSum_congr fun l _ => ?_
  rw [quotientCoeff, productCoeff, gmul_xorSum, xorSum_gmul]
  refine xorSum_congr fun i _ => ?_
  rw [Nat.succ_mul, ← gmul_apow, Nat.one_mul, ← gmul_assoc, ← gmul_assoc, gmul_comm (p i), gmul_assoc (w l),
    Nat.mul_comm l, gmul_assoc (w l)]

/-- The weight of each error in the product, from the degree of the polynomial on. -/
theorem productCoeff_polyValue_add {p w : Nat → Byte} {d : Nat} (hd : ∀ i, d < i → p i = 0) (n i : Nat) :
    productCoeff p (fun i => polyValue n w (i + 1)) (d + i) =
      polyValue n (fun l => gmul (w l) (quotientCoeff p l d)) (1 + i) := by
  rw [productCoeff_polyValue]
  refine xorSum_congr fun l _ => ?_
  dsimp only
  rw [quotientCoeff_add hd, ← gmul_assoc, gmul_assoc _ (apow _), gmul_apow, Nat.add_mul, Nat.mul_comm i,
    Nat.add_comm (l * i)]

/-- A polynomial of degree `d` with discrepancy zero at as many indices from `d` on as there are errors has the
inverse of each error's element as a root. -/
theorem locates_errors {p s w : Nat → Byte} {d m n : Nat} (hn : n ≤ 255) (hd : ∀ i, d < i → p i = 0)
    (hs : ∀ j, j < m → s j = polyValue n w (j + 1)) (hp : ∀ j, d ≤ j → j < m → productCoeff p s j = 0)
    (hm : d + (errorSupport n w).card ≤ m) {l : Nat} (hl : l < n) : gmul (w l) (quotientCoeff p l d) = 0 := by
  have fewer := errorSupport_subset (n := n) fun l (hw : w l = 0) =>
    (gmul_eq_zero_iff (w l) (quotientCoeff p l d)).2 (.inl hw)
  refine eq_zero_of_values hn (e := 1) (Finset.card_le_card fewer) (fun i hi => ?_) l hl
  rw [← productCoeff_polyValue_add hd, ← hp (d + i) (by omega) (by omega)]
  exact productCoeff_congr (fun _ _ => rfl) fun j hj => (hs j (by omega)).symm

/-- A polynomial that has located the errors has no discrepancy at any later index. -/
theorem productCoeff_eq_zero_of_located {p w : Nat → Byte} {d n j : Nat} (hd : ∀ i, d < i → p i = 0) (hj : d ≤ j)
    (h : ∀ l, l < n → gmul (w l) (quotientCoeff p l d) = 0) :
    productCoeff p (fun i => polyValue n w (i + 1)) j = 0 := by
  obtain ⟨i, rfl⟩ := Nat.exists_eq_add_of_le hj
  rw [productCoeff_polyValue_add hd]
  exact (polyValue_congr h _).trans (polyValue_zeros n _)

/-- While the syndromes are those of `t` errors, the length is at most `t`: where it would grow past `t` the
polynomial has located the errors already, and there is no discrepancy. -/
theorem solverAfter_len_le {syn : List Byte} {w : Nat → Byte} {npar n : Nat} (hn : n ≤ 255)
    (hs : ∀ j, j < npar → coeff syn j = polyValue n w (j + 1)) {m : Nat} (hm : m ≤ npar) :
    (solverAfter syn m).len ≤ (errorSupport n w).card := by
  induction m with
  | zero => exact Nat.zero_le _
  | succ m ih =>
    have hold := ih (by omega)
    rcases solverAfter_len_cases syn m with heq | ⟨hdelta, heq⟩
    · omega
    · obtain ⟨-, hfits⟩ := solverAfter_fits syn m
      by_contra hgrow
      refine hdelta ?_
      rw [productCoeff_congr (fun _ _ => rfl) fun j hj => hs j (by omega)]
      exact productCoeff_eq_zero_of_located hfits.degree hfits.len_le fun l hl =>
        locates_errors hn hfits.degree (fun j hj => hs j (by omega)) hfits.fits (by omega) hl

end Sys2Proof.Machine
end

section
/-! PROOF. The evaluator, the root search and the magnitudes (42_rs_decoder.md R148 to R155): what they are for any
locator, and that with at most half as many errors as parity bytes they are the errors (R159). -/

namespace Sys2Proof.Machine

/-! ## The root search -/

theorem locatorAt_eq_polyValue (lam : List Byte) (npar r : Nat) :
    locatorAt lam npar r = polyValue (npar + 1) (coeff lam) r :=
  xorSum_congr fun j _ => by rw [gmul_comm, Nat.mul_comm]

theorem lt_of_mem_errorLocations {lam : List Byte} {npar i : Nat} (h : i ∈ errorLocations lam npar) : i < 255 :=
  ((mem_errorLocations lam npar i).1 h).1

/-- The locations fall, as the exponents of the search rise (42_rs_decoder.md R149). -/
theorem errorLocations_pairwise (lam : List Byte) (npar : Nat) : (errorLocations lam npar).Pairwise (· > ·) := by
  have exponents : (((List.range 255).map (· + 1)).filter fun r => locatorAt lam npar r == 0x00).Pairwise (· < ·) :=
    (List.pairwise_map.2 (List.pairwise_lt_range.imp Nat.succ_lt_succ)).filter _
  refine List.pairwise_map.2 (exponents.imp_of_mem fun {r r'} _ hr' hlt => ?_)
  obtain ⟨j, hj, rfl⟩ := List.mem_map.1 (List.mem_filter.1 hr').1
  have := List.mem_range.1 hj
  omega

theorem nodup_errorLocations (lam : List Byte) (npar : Nat) : (errorLocations lam npar).Nodup :=
  (errorLocations_pairwise lam npar).imp fun h => Nat.ne_of_gt h

/-- No more roots than the degree (42_rs_decoder.md R151). -/
theorem length_errorLocations_le_npar {lam : List Byte} (h : coeff lam 0 = 1) (npar : Nat) :
    (errorLocations lam npar).length ≤ npar := by
  rw [← List.toFinset_card_of_nodup (nodup_errorLocations lam npar)]
  refine card_roots_le h fun l hl => ?_
  rw [← locatorAt_eq_polyValue]
  exact (mem_errorLocations lam npar l).1 (List.mem_toFinset.1 hl)

/-- The locator has the degree of the solver's length, so that many terms are its value. -/
theorem polyValue_errorLocator (syn : List Byte) (npar e : Nat) :
    polyValue (npar + 1) (coeff (errorLocator syn npar)) e =
      polyValue ((solverAfter syn npar).len + 1) (coeff (errorLocator syn npar)) e :=
  polyValue_eq_of_zero_above (fun _ => coeff_errorLocator_of_len_lt)
    (Nat.succ_le_succ (solverAfter_fits syn npar).2.len_le) e

/-! ## The evaluator and the magnitudes -/

theorem coeff_errorEvaluator (lam syn : List Byte) {npar j : Nat} (h : j < npar) :
    coeff (errorEvaluator lam syn npar) j = productCoeff (coeff lam) (coeff syn) j := by
  simp [errorEvaluator, coeff, h, productCoeff]

/-- The magnitude is the quotient of evaluator and derivative, where the derivative is not zero
(42_rs_decoder.md R153, R154). -/
theorem errorMagnitude_eq_some_iff {lam om : List Byte} {npar i : Nat} {e : Byte} :
    errorMagnitude lam om npar i = some e ↔
      magnitudeDenominator lam npar i ≠ 0 ∧
        gmul e (magnitudeDenominator lam npar i) = magnitudeNumerator om npar i := by
  rw [errorMagnitude, Option.map_eq_some_iff]
  constructor
  · rintro ⟨r, hr, rfl⟩
    refine ⟨fun h0 => ?_, ?_⟩
    · rw [(ginv_eq_none_iff _).2 h0] at hr
      cases hr
    · rw [gmul_assoc, gmul_comm r, gmul_ginv hr, gmul_one_right]
  · rintro ⟨h0, hnum⟩
    obtain ⟨r, hr⟩ := Option.ne_none_iff_exists'.1 (mt (ginv_eq_none_iff _).1 h0)
    exact ⟨r, hr, by rw [← hnum, gmul_assoc, gmul_ginv hr, gmul_one_right]⟩

theorem exists_errorMagnitude {lam : List Byte} (om : List Byte) {npar i : Nat}
    (h : magnitudeDenominator lam npar i ≠ 0) : ∃ e, errorMagnitude lam om npar i = some e := by
  obtain ⟨r, hr⟩ := Option.ne_none_iff_exists'.1 (mt (ginv_eq_none_iff _).1 h)
  exact ⟨_, by rw [errorMagnitude, hr, Option.map_some]⟩

/-- The magnitudes exist together when each exists (42_rs_decoder.md R154). -/
theorem errorMagnitudes_eq_some {lam om : List Byte} {npar : Nat} {is : List Nat} {f : Nat → Byte}
    (h : ∀ i ∈ is, errorMagnitude lam om npar i = some (f i)) : errorMagnitudes lam om npar is = some (is.map f) := by
  induction is with
  | nil => rfl
  | cons i is ih =>
    rw [errorMagnitudes, h i (by simp), ih fun i hi => h i (List.mem_cons_of_mem _ hi)]
    rfl

/-- When the magnitudes exist no derivative is zero. -/
theorem denominator_ne_zero_of_errorMagnitudes {lam om : List Byte} {npar : Nat} {is : List Nat} {es : List Byte}
    (h : errorMagnitudes lam om npar is = some es) : ∀ i ∈ is, magnitudeDenominator lam npar i ≠ 0 := by
  induction is generalizing es with
  | nil => simp
  | cons i is ih =>
    rw [errorMagnitudes] at h
    split at h
    · rename_i hi his
      exact List.forall_mem_cons.2 ⟨(errorMagnitude_eq_some_iff.1 hi).1, ih his⟩
    · cases h

/-- The tests of 42_rs_decoder.md R150 to R152, passed. -/
theorem corrections_eq_errorMagnitudes {lam om : List Byte} {npar n : Nat} {is : List Nat} (h0 : is ≠ [])
    (hlen : is.length ≤ npar) (hn : ∀ i ∈ is, i < n) :
    corrections lam om npar n is = errorMagnitudes lam om npar is := by
  rw [corrections, if_neg (by simpa using h0), if_neg (by omega), if_neg (by simpa using hn)]

/-! ## The derivative -/

/-- The partial sums of `n + 1` terms that add up to zero, added up, are the terms of odd index: in `n` partial sums the
term of index `i` counts `n - i` times. -/
theorem xorSum_partial_sums (n : Nat) (f : Nat → Byte) :
    (xorSum n fun j => xorSum (j + 1) f) =
      (xorSum (n + 1) fun j => if j % 2 = 1 then f j else 0#8) ^^^ if n % 2 = 1 then xorSum (n + 1) f else 0#8 := by
  induction n with
  | zero => simp [xorSum]
  | succ n ih =>
    rw [xorSum_succ, ih, xorSum_succ (n + 1)]
    rcases Nat.mod_two_eq_zero_or_one n with h | h
    · have cancel (a b c : Byte) : a ^^^ c ^^^ (b ^^^ c) = a ^^^ b := by
        rw [BitVec.xor_comm b, BitVec.xor_assoc, ← BitVec.xor_assoc c, BitVec.xor_self, BitVec.zero_xor]
      rw [if_neg (by omega), if_pos (by omega), if_pos (by omega), BitVec.xor_zero, xorSum_succ (n + 1) f, cancel]
    · rw [if_pos h, if_neg (by omega), if_neg (by omega), BitVec.xor_assoc, BitVec.xor_self, BitVec.xor_zero,
        BitVec.xor_zero]

/-- At a root the quotient by its factor is the element times the derivative (42_rs_decoder.md R153). -/
theorem polyValue_quotientCoeff_self {lam : List Byte} {npar l : Nat} (hl : l ≤ 255)
    (hroot : polyValue (npar + 1) (coeff lam) (255 - l) = 0) :
    polyValue npar (quotientCoeff (coeff lam) l) (255 - l) =
      gmul (apow (255 - l)) (magnitudeDenominator lam npar l) := by
  have partials : polyValue npar (quotientCoeff (coeff lam) l) (255 - l) =
      xorSum npar fun j => polyValue (j + 1) (coeff lam) (255 - l) :=
    xorSum_congr fun j _ => quotientCoeff_value (coeff lam) hl j
  have total : xorSum (npar + 1) (fun j => gmul (coeff lam j) (apow ((255 - l) * j))) = 0 := hroot
  have odd : ∀ j, (if j % 2 = 1 then gmul (coeff lam j) (apow ((255 - l) * j)) else 0#8) =
      gmul (apow (255 - l))
        (if j % 2 = 1 then gmul (coeff lam j) (apow ((255 - l) * (j - 1))) else 0x00) := by
    intro j
    split
    · obtain ⟨i, rfl⟩ : ∃ i, j = i + 1 := ⟨j - 1, by omega⟩
      rw [Nat.add_sub_cancel, gmul_comm (apow _), gmul_assoc, gmul_apow, Nat.mul_succ]
    · exact (gmul_zero_right _).symm
  calc polyValue npar (quotientCoeff (coeff lam) l) (255 - l)
      = xorSum npar fun j => xorSum (j + 1) fun i => gmul (coeff lam i) (apow ((255 - l) * i)) := partials
    _ = xorSum (npar + 1) fun j => if j % 2 = 1 then gmul (coeff lam j) (apow ((255 - l) * j)) else 0#8 := by
      rw [xorSum_partial_sums, total, show (0 : Byte) = 0#8 from rfl, ite_self, BitVec.xor_zero]
    _ = gmul (apow (255 - l)) (magnitudeDenominator lam npar l) := by
      rw [magnitudeDenominator, gmul_xorSum]
      exact xorSum_congr fun j _ => odd j

/-- The evaluator of a locator with a root at each error is, at the root of one error, its magnitude times the
derivative: the other errors' quotients vanish there (42_rs_decoder.md R153). -/
theorem magnitudeNumerator_eq {lam syn : List Byte} {w : Nat → Byte} {npar n l0 : Nat} (hn : n ≤ 255)
    (hs : ∀ j, j < npar → coeff syn j = polyValue n w (j + 1))
    (hroot : ∀ l ∈ errorSupport n w, polyValue (npar + 1) (coeff lam) (255 - l) = 0) (hl0 : l0 ∈ errorSupport n w) :
    magnitudeNumerator (errorEvaluator lam syn npar) npar l0 = gmul (w l0) (magnitudeDenominator lam npar l0) := by
  have evaluator : magnitudeNumerator (errorEvaluator lam syn npar) npar l0 =
      xorSum npar fun j => gmul (polyValue n (fun l => gmul (w l) (quotientCoeff (coeff lam) l j)) 1)
        (apow ((255 - l0) * j)) := xorSum_congr fun j hj => by
    rw [coeff_errorEvaluator lam syn hj, productCoeff_congr (fun _ _ => rfl) fun i hi => hs i (by omega),
      productCoeff_polyValue]
  have swapped : magnitudeNumerator (errorEvaluator lam syn npar) npar l0 =
      xorSum n fun l => gmul (gmul (w l) (apow (1 * l))) (polyValue npar (quotientCoeff (coeff lam) l) (255 - l0)) := by
    rw [evaluator]
    simp only [polyValue, xorSum_gmul, gmul_xorSum]
    rw [xorSum_comm]
    refine xorSum_congr fun l _ => xorSum_congr fun j _ => ?_
    rw [gmul_assoc, gmul_assoc, gmul_assoc, gmul_comm (apow (1 * l)) (gmul _ _), gmul_assoc,
      gmul_comm (apow (1 * l))]
  obtain ⟨hl0n, -⟩ := mem_errorSupport.1 hl0
  rw [swapped, xorSum_eq_single hl0n, polyValue_quotientCoeff_self (by omega) (hroot l0 hl0), gmul_assoc,
    ← gmul_assoc (apow _), gmul_apow, Nat.one_mul, Nat.add_sub_cancel' (by omega), apow_255, gmul_one_left]
  intro l hl hne
  by_cases hw : w l = 0
  · rw [hw]
    simp
  · rw [polyValue_quotientCoeff_eq_zero (by omega) (by omega) hne (hroot l (mem_errorSupport.2 ⟨hl, hw⟩))
      (hroot l0 hl0)]
    exact gmul_zero_right _

/-! ## At most half as many errors as parity bytes -/

section WithinBudget

variable {syn : List Byte} {w : Nat → Byte} {npar n : Nat} (hn : n ≤ 255)
  (hs : ∀ j, j < npar → coeff syn j = polyValue n w (j + 1)) (hw : 2 * (errorSupport n w).card ≤ npar)
include hn hs hw

/-- The length of the solver is at most the number of errors, and its polynomial has a root at each error. -/
theorem solver_root {l : Nat} (hl : l ∈ errorSupport n w) :
    polyValue ((solverAfter syn npar).len + 1) (coeff (errorLocator syn npar)) (255 - l) = 0 := by
  obtain ⟨-, hfits⟩ := solverAfter_fits syn npar
  have hlen := solverAfter_len_le hn hs (Nat.le_refl npar)
  obtain ⟨hln, hwl⟩ := mem_errorSupport.1 hl
  have located := locates_errors hn hfits.degree hs hfits.fits (by omega) hln
  exact (quotientCoeff_eq_zero_iff _ (by omega) _).1 (((gmul_eq_zero_iff _ _).1 located).resolve_left hwl)

theorem errorLocator_root {l : Nat} (hl : l ∈ errorSupport n w) :
    polyValue (npar + 1) (coeff (errorLocator syn npar)) (255 - l) = 0 := by
  rw [polyValue_errorLocator]
  exact solver_root hn hs hw hl

/-- The locations found are exactly those of the errors: the locator has no room for a further root. -/
theorem toFinset_errorLocations :
    (errorLocations (errorLocator syn npar) npar).toFinset = errorSupport n w := by
  refine (Finset.eq_of_subset_of_card_le (fun l hl => ?_) ?_).symm
  · refine List.mem_toFinset.2 ((mem_errorLocations _ npar l).2 ⟨?_, ?_⟩)
    · exact (mem_errorSupport.1 hl).1.trans_le hn
    · exact (locatorAt_eq_polyValue _ _ _).trans (errorLocator_root hn hs hw hl)
  · refine le_trans (card_roots_le (coeff_errorLocator_zero syn npar) fun l hl => ?_)
      (solverAfter_len_le hn hs (Nat.le_refl npar))
    obtain ⟨hlt, hroot⟩ := (mem_errorLocations _ npar l).1 (List.mem_toFinset.1 hl)
    refine ⟨hlt, ?_⟩
    rw [← polyValue_errorLocator,
      ← locatorAt_eq_polyValue]
    exact hroot

/-- The roots of the locator are simple: else the quotient by one factor, of a degree below the number of errors, would
have a root at every error. -/
theorem magnitudeDenominator_ne_zero {l0 : Nat} (hl0 : l0 ∈ errorSupport n w) :
    magnitudeDenominator (errorLocator syn npar) npar l0 ≠ 0 := by
  have bound : ∀ l ∈ errorSupport n w, l < 255 := fun l hl => (mem_errorSupport.1 hl).1.trans_le hn
  intro h0
  have repeated := polyValue_quotientCoeff_self (bound l0 hl0).le (errorLocator_root hn hs hw hl0)
  rw [h0, show gmul _ 0 = 0#8 from gmul_zero_right _] at repeated
  have roots : ∀ l ∈ errorSupport n w,
      polyValue npar (quotientCoeff (coeff (errorLocator syn npar)) l0) (255 - l) = 0 := by
    intro l hl
    rcases eq_or_ne l0 l with rfl | hne
    · exact repeated
    · exact polyValue_quotientCoeff_eq_zero (bound l0 hl0) (bound l hl) hne (errorLocator_root hn hs hw hl0)
        (errorLocator_root hn hs hw hl)
  have above : ∀ j, (errorSupport n w).card ≤ j → quotientCoeff (coeff (errorLocator syn npar)) l0 j = 0 := by
    intro j hj
    obtain ⟨i, rfl⟩ := Nat.exists_eq_add_of_le ((solverAfter_len_le hn hs (Nat.le_refl npar)).trans hj)
    rw [quotientCoeff_add (fun _ => coeff_errorLocator_of_len_lt),
      (quotientCoeff_eq_zero_iff _ (bound l0 hl0).le _).2 (solver_root hn hs hw hl0)]
    exact gmul_zero_left _
  have short := polyValue_eq_of_zero_above (n := npar) above (by omega)
  have constant := eq_zero_of_roots (fun l hl => ⟨bound l hl, (short _).symm.trans (roots l hl)⟩) (Nat.le_refl _) 0
    (Finset.card_pos.2 ⟨l0, hl0⟩)
  simp [quotientCoeff_zero, coeff_errorLocator_zero] at constant

/-- The magnitudes found are the errors. -/
theorem errorMagnitude_eq {l : Nat} (hl : l ∈ errorSupport n w) :
    errorMagnitude (errorLocator syn npar) (errorEvaluator (errorLocator syn npar) syn npar) npar l = some (w l) :=
  errorMagnitude_eq_some_iff.2 ⟨magnitudeDenominator_ne_zero hn hs hw hl,
    (magnitudeNumerator_eq hn hs (fun _ => errorLocator_root hn hs hw) hl).symm⟩

end WithinBudget

end Sys2Proof.Machine
end

section
/-! PROOF. `RSSYN` and `RSDEC` on the block: which registers and bytes a decode leaves, in terms of the solver's
polynomials (42_rs_decoder.md R141 to R156). -/

namespace Sys2Proof.Machine

/-! ## Arrays written whole, and their entries as numbers -/

theorem Memory.bytes_ofBytes (bs : List Byte) : (Memory.ofBytes bs).bytes 0 bs.length = bs := by
  refine List.ext_getElem (by simp) fun i hi hb => ?_
  rw [← List.getD_eq_getElem _ 0 hi, ← List.getD_eq_getElem _ 0 hb, Memory.getD_bytes _ hb, Nat.zero_add,
    Memory.read_ofBytes]

/-- A list of numbers below 256 written as bytes is read back as those numbers. -/
theorem Memory.toNat_read_ofBytes_map {is : List Nat} (h : ∀ i ∈ is, i < 256) {r : Nat} (hr : r < is.length) :
    ((Memory.ofBytes (is.map (BitVec.ofNat 8))).read r).toNat = is[r] := by
  rw [Memory.read_ofBytes, List.getD_eq_getElem _ _ (by simpa using hr), List.getElem_map, BitVec.toNat_ofNat]
  exact Nat.mod_eq_of_lt (h _ (List.getElem_mem hr))

namespace Block

/-! ## The correction -/

theorem correct_eq_update (s : Block) (n : Nat) (is : List Nat) (es : List Byte) :
    s.correct n is es = { s with dbuf := (s.correct n is es).dbuf } := by
  induction is generalizing s es with
  | nil => cases es <;> rfl
  | cons i is ih => cases es with
    | nil => rfl
    | cons e es => exact ih (s.writeDbuf (n - 1 - i) [s.dbuf.read (n - 1 - i) ^^^ e]) es

/-- A location met once gets its own byte of the correction (42_rs_decoder.md R155). -/
theorem correct_read_location {s : Block} {n : Nat} {is : List Nat} (hnodup : is.Nodup) (hn : ∀ i ∈ is, i < n)
    (f : Nat → Byte) {l : Nat} (hl : l ∈ is) :
    (s.correct n is (is.map f)).dbuf.read (n - 1 - l) = s.dbuf.read (n - 1 - l) ^^^ f l := by
  induction is generalizing s with
  | nil => cases hl
  | cons i is ih =>
    obtain ⟨hi, hnodup⟩ := List.nodup_cons.1 hnodup
    obtain ⟨hin, hn⟩ := List.forall_mem_cons.1 hn
    have apart {a : Nat} (ha : a ∈ is) : n - 1 - a ≠ n - 1 - i := by
      have hne : a ≠ i := fun h => hi (h ▸ ha)
      have := hn a ha
      omega
    rw [List.map_cons, correct]
    rcases List.mem_cons.1 hl with rfl | hl
    · rw [correct_read_other _ fun _ => apart]
      simp [Memory.writeBytes]
    · rw [ih hnodup hn hl]
      simp [Memory.writeBytes, (apart hl).symm]

/-! ## The ends of a decode -/

/-- The syndromes that a decode computes first (42_rs_decoder.md R143). -/
def receivedSyndromes (s : Block) (k npar : Nat) : List Byte := syndromes (s.dbuf.bytes 0 (k + npar)) npar

/-- The locator of the received word, `LAMBDA` (42_rs_decoder.md R147). -/
def receivedLocator (s : Block) (k npar : Nat) : List Byte := errorLocator (s.receivedSyndromes k npar) npar

/-- The evaluator of the received word, `OMEGA` (42_rs_decoder.md R148). -/
def receivedEvaluator (s : Block) (k npar : Nat) : List Byte :=
  errorEvaluator (s.receivedLocator k npar) (s.receivedSyndromes k npar) npar

/-- The locations found in the received word (42_rs_decoder.md R149). -/
def foundLocations (s : Block) (k npar : Nat) : List Nat := errorLocations (s.receivedLocator k npar) npar

/-- The block with the solver's registers written, before the tests of 42_rs_decoder.md R150 to R154. -/
def solved (s : Block) (k npar : Nat) : Block :=
  (s.computeSyndromes k npar).setSolver (s.receivedLocator k npar) (s.receivedEvaluator k npar)
    (s.foundLocations k npar)

/-- The magnitudes to correct the received word with (42_rs_decoder.md R150 to R154). -/
def receivedCorrections (s : Block) (k npar : Nat) : Option (List Byte) :=
  corrections (s.receivedLocator k npar) (s.receivedEvaluator k npar) npar (k + npar) (s.foundLocations k npar)

variable (s : Block) {k npar : Nat}

theorem coeff_receivedSyndromes {j : Nat} (h : j < npar) :
    coeff (s.receivedSyndromes k npar) j = syndrome (s.dbuf.bytes 0 (k + npar)) j := by
  simp [coeff, receivedSyndromes, syndromes, h]

theorem coeff_receivedLocator_zero : coeff (s.receivedLocator k npar) 0 = 1 := coeff_errorLocator_zero _ npar

theorem lt_of_mem_foundLocations : ∀ i ∈ s.foundLocations k npar, i < 255 := fun _ => lt_of_mem_errorLocations

theorem length_foundLocations_le : (s.foundLocations k npar).length ≤ npar :=
  length_errorLocations_le_npar s.coeff_receivedLocator_zero npar

/-- A decode with every syndrome zero (42_rs_decoder.md R143). -/
theorem decodeCodeword_of_synnz_eq_zero (h : (s.computeSyndromes k npar).synnz = 0) :
    s.decodeCodeword k npar = ((s.computeSyndromes k npar).setSolver [0x01] [] []).setResult .ok := if_pos h

/-- A decode with a nonzero syndrome gives up, or corrects every location found (42_rs_decoder.md R150 to R155). -/
theorem decodeCodeword_of_synnz_ne_zero (h : (s.computeSyndromes k npar).synnz ≠ 0) :
    (s.receivedCorrections k npar = none ∧ s.decodeCodeword k npar = (s.solved k npar).setResult .unrepairable) ∨
    ∃ es, s.receivedCorrections k npar = some es ∧
      s.decodeCodeword k npar = ((s.solved k npar).correct (k + npar) (s.foundLocations k npar) es).setResult .ok := by
  rcases s.decodeCodeword_cases k npar with
    ⟨h0, -⟩ | ⟨-, syn, lam, om, locs, rfl, rfl, rfl, rfl, ⟨hc, heq⟩ | ⟨es, hc, heq⟩⟩
  · exact absurd h0 h
  · exact .inl ⟨hc, heq⟩
  · exact .inr ⟨es, hc, heq⟩

/-- What a decode can write (42_rs_decoder.md R143). -/
theorem decodeCodeword_eq_update :
    s.decodeCodeword k npar =
      { s with
        dbuf := (s.decodeCodeword k npar).dbuf, syn := (s.decodeCodeword k npar).syn
        synnz := (s.decodeCodeword k npar).synnz, lambda := (s.decodeCodeword k npar).lambda
        omega := (s.decodeCodeword k npar).omega, errloc := (s.decodeCodeword k npar).errloc
        nerr := (s.decodeCodeword k npar).nerr, result := (s.decodeCodeword k npar).result } := by
  by_cases h : (s.computeSyndromes k npar).synnz = 0
  · rw [s.decodeCodeword_of_synnz_eq_zero h]
    rfl
  · rcases s.decodeCodeword_of_synnz_ne_zero h with ⟨-, heq⟩ | ⟨es, -, heq⟩ <;> rw [heq]
    · rfl
    · rw [correct_eq_update]
      rfl

/-- The syndromes are computed first, and nothing after them changes them (42_rs_decoder.md R143). -/
theorem decodeCodeword_syndromes :
    (s.decodeCodeword k npar).syn = (s.computeSyndromes k npar).syn ∧
    (s.decodeCodeword k npar).synnz = (s.computeSyndromes k npar).synnz := by
  by_cases h : (s.computeSyndromes k npar).synnz = 0
  · rw [s.decodeCodeword_of_synnz_eq_zero h]
    exact ⟨rfl, rfl⟩
  · rcases s.decodeCodeword_of_synnz_ne_zero h with ⟨-, heq⟩ | ⟨es, -, heq⟩ <;> rw [heq]
    · exact ⟨rfl, rfl⟩
    · exact ⟨correct_syn .., correct_synnz ..⟩

/-- The registers of the solver after a decode with a nonzero syndrome, repaired or not. -/
theorem decodeCodeword_solver (h : (s.computeSyndromes k npar).synnz ≠ 0) :
    (s.decodeCodeword k npar).lambda = (s.solved k npar).lambda ∧
    (s.decodeCodeword k npar).omega = (s.solved k npar).omega ∧
    (s.decodeCodeword k npar).errloc = (s.solved k npar).errloc ∧
    (s.decodeCodeword k npar).nerr = (s.solved k npar).nerr := by
  rcases s.decodeCodeword_of_synnz_ne_zero h with ⟨-, heq⟩ | ⟨es, -, heq⟩ <;> rw [heq]
  · exact ⟨rfl, rfl, rfl, rfl⟩
  · exact ⟨correct_lambda .., correct_omega .., correct_errloc .., correct_nerr ..⟩

/-- A decode that gives up changes no byte (42_rs_decoder.md R150 to R154). -/
theorem decodeCodeword_gives_up (h : (s.computeSyndromes k npar).synnz ≠ 0) (hc : s.receivedCorrections k npar = none) :
    (s.decodeCodeword k npar).result = 2 ∧ (s.decodeCodeword k npar).dbuf = s.dbuf := by
  rcases s.decodeCodeword_of_synnz_ne_zero h with ⟨-, heq⟩ | ⟨es, hes, -⟩
  · rw [heq]
    exact ⟨rfl, rfl⟩
  · rw [hc] at hes
    cases hes

/-- A decode that repairs changes each located byte by its magnitude, and no other byte (42_rs_decoder.md R155). -/
theorem decodeCodeword_repairs (h : (s.computeSyndromes k npar).synnz ≠ 0) {f : Nat → Byte}
    (hc : s.receivedCorrections k npar = some ((s.foundLocations k npar).map f)) :
    (s.decodeCodeword k npar).result = 0 ∧
    (∀ l ∈ s.foundLocations k npar, (s.decodeCodeword k npar).dbuf.read (k + npar - 1 - l) =
      s.dbuf.read (k + npar - 1 - l) ^^^ f l) ∧
    ∀ i, (∀ l ∈ s.foundLocations k npar, k + npar - 1 - l ≠ i) →
      (s.decodeCodeword k npar).dbuf.read i = s.dbuf.read i := by
  obtain ⟨-, -, hbound, -⟩ := corrections_eq_some hc
  rcases s.decodeCodeword_of_synnz_ne_zero h with ⟨hnone, -⟩ | ⟨es, hes, heq⟩
  · rw [hc] at hnone
    cases hnone
  · obtain rfl := Option.some.inj (hc.symm.trans hes)
    rw [heq]
    exact ⟨rfl, fun l hl => correct_read_location (s := s.solved k npar) (nodup_errorLocations _ npar) hbound f hl,
      fun i hi => correct_read_other (s := s.solved k npar) _ hi⟩

/-- The bytes above the codeword stay (42_rs_decoder.md R143). -/
theorem decodeCodeword_read_above (h0 : npar ≠ 0) {i : Nat} (hi : k + npar ≤ i) :
    (s.decodeCodeword k npar).dbuf.read i = s.dbuf.read i := by
  by_cases h : (s.computeSyndromes k npar).synnz = 0
  · rw [s.decodeCodeword_of_synnz_eq_zero h]
    rfl
  · rcases s.decodeCodeword_of_synnz_ne_zero h with ⟨-, heq⟩ | ⟨es, hes, heq⟩ <;> rw [heq]
    · rfl
    · exact correct_read_other (s := s.solved k npar) es fun l _ => by omega

/-! ## The registers of the solver as numbers -/

section Registers

variable (k npar)

theorem solved_lambda_read (j : Nat) : (s.solved k npar).lambda.read j = coeff (s.receivedLocator k npar) j :=
  Memory.read_ofBytes_eq_coeff _ j

theorem solved_omega_read (j : Nat) : (s.solved k npar).omega.read j = coeff (s.receivedEvaluator k npar) j :=
  Memory.read_ofBytes_eq_coeff _ j

theorem solved_nerr_toNat : (s.solved k npar).nerr.toNat = (s.foundLocations k npar).length := by
  have : (s.foundLocations k npar).length ≤ 255 := length_errorLocations_le _ npar
  rw [solved, setSolver_nerr, BitVec.toNat_ofNat]
  exact Nat.mod_eq_of_lt (by omega)

theorem solved_errloc_toNat {r : Nat} (hr : r < (s.foundLocations k npar).length) :
    ((s.solved k npar).errloc.read r).toNat = (s.foundLocations k npar)[r] :=
  Memory.toNat_read_ofBytes_map (fun i hi => Nat.lt_succ_of_lt (s.lt_of_mem_foundLocations i hi)) hr

/-- What holds of every location listed below `NERR` holds of every location found. -/
theorem forall_solved_errloc_iff (p : Nat → Prop) :
    (∀ r, r < (s.solved k npar).nerr.toNat → p ((s.solved k npar).errloc.read r).toNat) ↔
      ∀ l ∈ s.foundLocations k npar, p l := by
  rw [solved_nerr_toNat, List.forall_mem_iff_forall_getElem]
  refine forall₂_congr fun r hr => ?_
  rw [s.solved_errloc_toNat k npar hr]

theorem exists_solved_errloc_iff (l : Nat) :
    (∃ r, r < (s.solved k npar).nerr.toNat ∧ ((s.solved k npar).errloc.read r).toNat = l) ↔
      l ∈ s.foundLocations k npar := by
  simpa using not_congr (s.forall_solved_errloc_iff k npar (· ≠ l))

end Registers

end Block

end Sys2Proof.Machine
end

section
/-! PROOF. The statements about `RSSYN` and `RSDEC` (42_rs_decoder.md R140 to R159). -/

namespace Sys2Proof.Machine

theorem synnz_ne_zero_iff (x : BitVec 1) : x ≠ 0 ↔ x = 1 := by
  bv_omega

theorem ok_ne_unrepairable : ResultCode.ok.bits ≠ 2 := by simp [ResultCode.bits]

/-! ## Syndromes -/

/-- `SYNNZ` = 1 exactly when a syndrome is nonzero (42_rs_decoder.md R142). -/
theorem Block.computeSyndromes_synnz_eq_one_iff (s : Block) (k npar : Nat) :
    (s.computeSyndromes k npar).synnz = 1 ↔ ∃ j, j < npar ∧ syndrome (s.dbuf.bytes 0 (k + npar)) j ≠ 0 := by
  rw [← synnz_ne_zero_iff, ne_eq, Block.computeSyndromes_synnz]
  push Not
  rfl

/-- Settles O36: Horner's rule gives the sum, and `SYN` is written whole. -/
theorem rssynComputesTheSyndromes : Obligations.RssynComputesTheSyndromes := by
  unfold Obligations.RssynComputesTheSyndromes
  intro k npar s h0 hn
  have read := s.computeSyndromes_read k npar
  refine ⟨_, exec_rssyn h0 hn s, rfl, fun j hj => ?_, fun j hj => ?_, ?_⟩
  · exact ((read j).trans (if_pos hj)).trans (syndrome_bytes _ _ j)
  · exact (read j).trans (if_neg (by omega))
  · refine (s.computeSyndromes_synnz_eq_one_iff k npar).trans (exists_congr fun j => and_congr_right fun hj => ?_)
    rw [State.onBlock_toBlock, read, if_pos hj]

/-! ## The ends of `RSDEC` -/

theorem Block.decodeCodeword_lambda_zero (s : Block) (k npar : Nat) : (s.decodeCodeword k npar).lambda.read 0 = 1 := by
  by_cases h : (s.computeSyndromes k npar).synnz = 0
  · rw [s.decodeCodeword_of_synnz_eq_zero h]
    rfl
  · obtain ⟨hlambda, -⟩ := s.decodeCodeword_solver h
    rw [hlambda, solved_lambda_read]
    exact s.coeff_receivedLocator_zero

/-- Settles O37: the three ends of a decode. -/
theorem rsdecOutcomes : Obligations.RsdecOutcomes := by
  unfold Obligations.RsdecOutcomes
  intro k npar s h0 hn
  refine ⟨_, exec_rsdec h0 hn s, ?_, fun i => s.decodeCodeword_read_above h0, fun u hu => ?_,
    s.decodeCodeword_lambda_zero k npar, ?_⟩
  · exact congrArg (fun b => { s with toBlock := b }) s.decodeCodeword_eq_update
  · obtain rfl := next_unique (exec_rssyn h0 hn s) hu
    exact s.decodeCodeword_syndromes
  · simp only [State.onBlock_toBlock, s.decodeCodeword_syndromes.2]
    by_cases h : (s.computeSyndromes k npar).synnz = 0
    · rw [s.decodeCodeword_of_synnz_eq_zero h]
      refine ⟨fun _ => ⟨rfl, rfl, fun j => ?_, fun j => ?_, rfl⟩, fun h2 => ?_, .inl rfl⟩
      · cases j <;> rfl
      · rfl
      · exact absurd h2 ok_ne_unrepairable
    · refine ⟨fun h' => absurd h' h, ?_⟩
      rcases s.decodeCodeword_of_synnz_ne_zero h with ⟨-, heq⟩ | ⟨es, -, heq⟩ <;> rw [heq]
      · exact ⟨fun _ => ⟨(synnz_ne_zero_iff _).1 h, rfl⟩, .inr rfl⟩
      · exact ⟨fun h2 => absurd h2 ok_ne_unrepairable, .inl rfl⟩

/-- A decode that leaves `SYNNZ` = 1 has the effect of a decode with a nonzero syndrome. -/
theorem rsdec_of_synnz {k npar : Nat} (h0 : npar ≠ 0) (hn : k + npar ≤ 255) {s t : State}
    (ht : exec (.rsdec k npar) s = .next t) (hnz : t.synnz = 1) :
    t.toBlock = s.decodeCodeword k npar ∧ (s.computeSyndromes k npar).synnz ≠ 0 := by
  obtain rfl := next_unique (exec_rsdec h0 hn s) ht
  exact ⟨rfl, (synnz_ne_zero_iff _).2 (s.decodeCodeword_syndromes.2.symm.trans hnz)⟩

/-- Settles O38: by the invariant of the iteration, and because the registers hold its polynomial at every end. -/
theorem solverFitsTheSyndromes : Obligations.SolverFitsTheSyndromes := by
  unfold Obligations.SolverFitsTheSyndromes
  refine ⟨fun syn npar => ?_, fun k npar s t h0 hn ht hnz j => ?_⟩
  · obtain ⟨-, hfits⟩ := solverAfter_fits syn npar
    refine ⟨coeff_errorLocator_zero syn npar, hfits.len_le, hfits.degree, fun j hj hlt => ?_⟩
    rw [← productCoeff_of_degree_le hfits.degree hj]
    exact hfits.fits j hj hlt
  · obtain ⟨heq, hne⟩ := rsdec_of_synnz h0 hn ht hnz
    obtain ⟨hlambda, -⟩ := s.decodeCodeword_solver hne
    have hsyn : t.syn.bytes 0 npar = s.receivedSyndromes k npar := by
      have := Memory.bytes_ofBytes (s.receivedSyndromes k npar)
      rwa [Block.receivedSyndromes, length_syndromes, ← Block.computeSyndromes_syn, ← s.decodeCodeword_syndromes.1,
        ← heq] at this
    rw [hsyn, heq, hlambda]
    exact s.solved_lambda_read k npar j

/-- Settles O39: the evaluator is the product, and the search lists the roots in the order of their exponents. -/
theorem evaluatorAndRootSearch : Obligations.EvaluatorAndRootSearch := by
  unfold Obligations.EvaluatorAndRootSearch
  intro k npar s t h0 hn ht hnz
  obtain ⟨heq, hne⟩ := rsdec_of_synnz h0 hn ht hnz
  obtain ⟨hlambda, homega, herrloc, hnerr⟩ := s.decodeCodeword_solver hne
  rw [heq, hlambda, homega, herrloc, hnerr, s.decodeCodeword_syndromes.1]
  simp only [Block.solved_lambda_read, Block.solved_omega_read]
  refine ⟨fun j hj => ?_, fun j hj => ?_, fun j hj => ?_, fun i hi => ?_, fun r r' hr hr' => ?_, fun r hr => ?_⟩
  · refine (coeff_errorEvaluator _ _ hj).trans (productCoeff_congr (fun _ _ => rfl) fun i hi => ?_)
    exact (Memory.read_ofBytes_eq_coeff _ i).symm
  · exact coeff_of_length_le (by rw [Block.receivedEvaluator, length_errorEvaluator]; exact hj)
  · exact coeff_of_length_le ((length_errorLocator_le _ npar).trans hj)
  · rw [Block.exists_solved_errloc_iff, Block.foundLocations, mem_errorLocations]
    exact and_iff_right hi
  · rw [Block.solved_nerr_toNat] at hr'
    rw [Block.solved_errloc_toNat _ _ _ hr', Block.solved_errloc_toNat _ _ _ (hr.trans hr')]
    exact List.pairwise_iff_getElem.1 (errorLocations_pairwise _ npar) r r' _ hr' hr
  · rw [Block.solved_nerr_toNat] at hr
    exact (Memory.read_ofBytes_eq_coeff _ r).trans (coeff_of_length_le (by simpa using hr))

/-- Settles O40: the locations are roots of a locator of degree at most `npar`. -/
theorem rootsBoundedByParity : Obligations.RootsBoundedByParity := by
  unfold Obligations.RootsBoundedByParity
  intro k npar s t h0 hn ht
  obtain rfl := next_unique (exec_rsdec h0 hn s) ht
  rw [State.onBlock_toBlock]
  by_cases h : (s.computeSyndromes k npar).synnz = 0
  · rw [s.decodeCodeword_of_synnz_eq_zero h]
    exact Nat.zero_le npar
  · obtain ⟨-, -, -, hnerr⟩ := s.decodeCodeword_solver h
    rw [hnerr, Block.solved_nerr_toNat]
    exact s.length_foundLocations_le

/-! ## Repair -/

namespace Block

variable (s : Block) (k npar : Nat)

/-- The corrections when every test of 42_rs_decoder.md R150 to R152 passes and the magnitudes are known. -/
theorem receivedCorrections_eq_some {f : Nat → Byte} (h0 : s.foundLocations k npar ≠ [])
    (hn : ∀ l ∈ s.foundLocations k npar, l < k + npar)
    (hf : ∀ l ∈ s.foundLocations k npar,
      errorMagnitude (s.receivedLocator k npar) (s.receivedEvaluator k npar) npar l = some (f l)) :
    s.receivedCorrections k npar = some ((s.foundLocations k npar).map f) :=
  (corrections_eq_errorMagnitudes h0 s.length_foundLocations_le hn).trans (errorMagnitudes_eq_some hf)

/-- The tests of 42_rs_decoder.md R150 to R154 but that of R151, which never fails. -/
def TestsPass : Prop :=
  s.foundLocations k npar ≠ [] ∧
    ∀ l ∈ s.foundLocations k npar, l < k + npar ∧ magnitudeDenominator (s.receivedLocator k npar) npar l ≠ 0

/-- Corrections come only after every test has passed. -/
theorem testsPass_of_receivedCorrections {es : List Byte} (h : s.receivedCorrections k npar = some es) :
    s.TestsPass k npar := by
  obtain ⟨h0, -, hn, hes⟩ := corrections_eq_some h
  exact ⟨h0, fun l hl => ⟨hn l hl, denominator_ne_zero_of_errorMagnitudes hes l hl⟩⟩

/-- When every test passes, each location has its quotient of evaluator and derivative as its correction. -/
theorem exists_receivedCorrections (h : s.TestsPass k npar) :
    ∃ f : Nat → Byte, s.receivedCorrections k npar = some ((s.foundLocations k npar).map f) ∧
      ∀ l ∈ s.foundLocations k npar, gmul (f l) (magnitudeDenominator (s.receivedLocator k npar) npar l) =
        magnitudeNumerator (s.receivedEvaluator k npar) npar l := by
  obtain ⟨hfound, htests⟩ := h
  have magnitudes : ∀ l ∈ s.foundLocations k npar, ∃ e, errorMagnitude (s.receivedLocator k npar)
      (s.receivedEvaluator k npar) npar l = some e := fun l hl => exists_errorMagnitude _ (htests l hl).2
  choose! f hf using magnitudes
  exact ⟨f, s.receivedCorrections_eq_some k npar hfound (fun l hl => (htests l hl).1) hf,
    fun l hl => (errorMagnitude_eq_some_iff.1 (hf l hl)).2⟩

end Block

/-- Settles O41: the corrections are there exactly when every test passes, and each is the quotient at its location. -/
theorem repairIsAllOrNothing : Obligations.RepairIsAllOrNothing := by
  unfold Obligations.RepairIsAllOrNothing
  intro k npar s t h0 hn ht hnz
  obtain ⟨heq, hne⟩ := rsdec_of_synnz h0 hn ht hnz
  obtain ⟨hlambda, homega, herrloc, hnerr⟩ := s.decodeCodeword_solver hne
  rw [← heq] at hlambda homega herrloc hnerr
  have hcount : t.nerr.toNat = (s.foundLocations k npar).length := hnerr ▸ s.solved_nerr_toNat k npar
  intro loc num den passes
  have locations (p : Nat → Prop) : (∀ r, r < t.nerr.toNat → p (loc r)) ↔ ∀ l ∈ s.foundLocations k npar, p l := by
    have := s.forall_solved_errloc_iff k npar p
    rwa [← hnerr, ← herrloc] at this
  have hnum (r : Nat) : num r = magnitudeNumerator (s.receivedEvaluator k npar) npar (loc r) :=
    xorSum_congr fun j _ => by rw [homega, Block.solved_omega_read]
  have hden (r : Nat) : den r = magnitudeDenominator (s.receivedLocator k npar) npar (loc r) :=
    xorSum_congr fun j _ => by rw [hlambda, Block.solved_lambda_read]
  have hpasses : passes ↔ s.TestsPass k npar := by
    refine and_congr (not_congr ?_) (Iff.trans (and_iff_right (hcount ▸ s.length_foundLocations_le)) ?_)
    · rw [← BitVec.toNat_inj, hcount]
      exact List.length_eq_zero_iff
    · simp only [hden]
      exact locations fun l => l < k + npar ∧ magnitudeDenominator (s.receivedLocator k npar) npar l ≠ 0
  simp only [hpasses, hnum, hden]
  constructor
  · intro hfail
    rw [heq]
    refine s.decodeCodeword_gives_up hne (Option.eq_none_iff_forall_ne_some.2 fun es hes => hfail ?_)
    exact s.testsPass_of_receivedCorrections k npar hes
  · intro htests
    obtain ⟨f, hcorrections, hquotient⟩ := s.exists_receivedCorrections k npar htests
    obtain ⟨hresult, hlocated, hother⟩ := s.decodeCodeword_repairs hne hcorrections
    rw [← heq] at hresult hlocated hother
    refine ⟨hresult, ?_, fun i hi => hother i ((locations fun l => k + npar - 1 - l ≠ i).1 hi)⟩
    exact (locations fun l => ∃ e, gmul e (magnitudeDenominator (s.receivedLocator k npar) npar l) =
      magnitudeNumerator (s.receivedEvaluator k npar) npar l ∧
        t.dbuf.read (k + npar - 1 - l) = s.dbuf.read (k + npar - 1 - l) ^^^ e).2
      fun l hl => ⟨f l, hquotient l hl, hlocated l hl⟩

end Sys2Proof.Machine
end

section
/-! PROOF. What `RSSYN` and `RSDEC` make of an encoded word with damaged bytes (42_rs_decoder.md R142, R159). -/

namespace Sys2Proof.Machine

/-! ## The error polynomial -/

/-- The word in an array as a polynomial: location `l` of the codeword is byte `n - 1 - l` (42_rs_decoder.md R141). -/
def wordPolynomial (m : Memory) (n l : Nat) : Byte := m.read (n - 1 - l)

/-- The difference of two words, location by location. -/
def errorPolynomial (sent received : Memory) (n l : Nat) : Byte :=
  wordPolynomial received n l ^^^ wordPolynomial sent n l

theorem syndrome_eq_polyValue (m : Memory) (n j : Nat) :
    syndrome (m.bytes 0 n) j = polyValue n (wordPolynomial m n) (j + 1) := by
  have horner := syndrome_append_reverse [] (m.bytes 0 n).reverse j
  rw [List.nil_append, List.reverse_reverse, List.length_reverse, Memory.length_bytes,
    show syndrome [] j = 0#8 from rfl, gmul_zero_right, BitVec.xor_zero] at horner
  refine horner.trans (polyValue_congr (fun l hl => ?_) _)
  rw [coeff_reverse _ (by simpa using hl), Memory.length_bytes, coeff]
  exact (Memory.getD_bytes m (by omega)).trans (by rw [Nat.zero_add]; rfl)

/-- The locations at which two words differ. -/
abbrev damagedLocations (sent received : Memory) (n : Nat) : Finset Nat :=
  errorSupport n (errorPolynomial sent received n)

/-- The syndromes of a damaged codeword are those of its errors. -/
theorem syndrome_eq_polyValue_error {sent : Memory} {n j : Nat} (received : Memory)
    (h : syndrome (sent.bytes 0 n) j = 0) :
    syndrome (received.bytes 0 n) j = polyValue n (errorPolynomial sent received n) (j + 1) := by
  have := polyValue_xor n (wordPolynomial received n) (wordPolynomial sent n) (j + 1)
  rw [← syndrome_eq_polyValue, ← syndrome_eq_polyValue, h] at this
  exact (this.trans BitVec.xor_zero).symm

theorem errorPolynomial_eq_zero_iff {sent received : Memory} {n l : Nat} :
    errorPolynomial sent received n l = 0 ↔ received.read (n - 1 - l) = sent.read (n - 1 - l) :=
  BitVec.xor_eq_zero_iff

/-- The location of a byte, as R141 counts it, has an error exactly when the byte differs. -/
theorem mem_damagedLocations_iff {sent received : Memory} {n i : Nat} (hi : i < n) :
    n - 1 - i ∈ damagedLocations sent received n ↔ received.read i ≠ sent.read i := by
  rw [mem_errorSupport, ne_eq, errorPolynomial_eq_zero_iff, show n - 1 - (n - 1 - i) = i by omega]
  exact and_iff_right (by omega)

/-- As many errors as differing bytes. -/
theorem card_damagedLocations (sent received : Memory) (n : Nat) :
    (damagedLocations sent received n).card =
      ((List.range n).filter fun i => received.read i ≠ sent.read i).length := by
  have count : ((List.range n).filter fun i => received.read i ≠ sent.read i).length =
      ((Finset.range n).filter fun i => received.read i ≠ sent.read i).card := rfl
  rw [count]
  refine Finset.card_nbij' (n - 1 - ·) (n - 1 - ·) (fun l hl => ?_) (fun i hi => ?_) (fun l hl => ?_) (fun i hi => ?_)
  · obtain ⟨hln, hw⟩ := mem_errorSupport.1 hl
    exact Finset.mem_filter.2 ⟨Finset.mem_range.2 (by dsimp only; omega), mt errorPolynomial_eq_zero_iff.2 hw⟩
  · obtain ⟨hin, hne⟩ := Finset.mem_filter.1 hi
    exact (mem_damagedLocations_iff (Finset.mem_range.1 hin)).2 hne
  · have := (mem_errorSupport.1 hl).1
    dsimp only
    omega
  · have := Finset.mem_range.1 (Finset.mem_filter.1 hi).1
    dsimp only
    omega

/-! ## Damage is noticed -/

/-- A word that differs from a codeword in 1 to `npar` bytes has a nonzero syndrome: the errors are too few to vanish at
`npar` powers of alpha in a row (42_rs_decoder.md R142). -/
theorem Block.computeSyndromes_synnz_of_errors {s : Block} {sent : Memory} {k npar : Nat} (hn : k + npar ≤ 255)
    (hsent : ∀ j, j < npar → syndrome (sent.bytes 0 (k + npar)) j = 0)
    (h1 : (damagedLocations sent s.dbuf (k + npar)).Nonempty)
    (hle : (damagedLocations sent s.dbuf (k + npar)).card ≤ npar) :
    (s.computeSyndromes k npar).synnz ≠ 0 := by
  intro hzero
  obtain ⟨l, hl⟩ := h1
  obtain ⟨hln, hw⟩ := mem_errorSupport.1 hl
  refine hw (eq_zero_of_values hn (e := 1) hle (fun j hj => ?_) l hln)
  rw [Nat.add_comm 1 j, ← syndrome_eq_polyValue_error _ (hsent j hj)]
  exact (s.computeSyndromes_synnz k npar).1 hzero j hj

/-- Every syndrome of the word that `RSENC` leaves is zero (41_rs_encoder.md R126). -/
theorem syndrome_of_exec_rsenc {k npar : Nat} (h0 : npar ≠ 0) (hn : k + npar ≤ 255) {s t : State}
    (ht : exec (.rsenc k npar) s = .next t) : ∀ j, j < npar → syndrome (t.dbuf.bytes 0 (k + npar)) j = 0 := by
  obtain rfl := next_unique (exec_rsenc h0 hn s) ht
  exact fun j => s.encodePayload_syndrome

/-- Settles O45: by the number of terms of the error polynomial. -/
theorem damageIsDetected : Obligations.DamageIsDetected := by
  unfold Obligations.DamageIsDetected
  intro k npar s t u received h0 hn ht h1 hle hu
  obtain rfl := next_unique (exec_rssyn h0 hn _) hu
  rw [← card_damagedLocations] at h1 hle
  exact (synnz_ne_zero_iff _).1 (Block.computeSyndromes_synnz_of_errors (s := { t.toBlock with dbuf := received }) hn
    (syndrome_of_exec_rsenc h0 hn ht) (Finset.card_pos.1 h1) hle)

/-! ## Damage within the budget is repaired -/

namespace Block

/-- The block after a repair: the word is the one sent, and the locations listed are those of the errors
(42_rs_decoder.md R159). -/
def Restored (u : Block) (sent : Memory) (n : Nat) (errors : Finset Nat) : Prop :=
  u.result = 0 ∧ (∀ i, i < n → u.dbuf.read i = sent.read i) ∧ u.nerr.toNat = errors.card ∧
  ∀ l, l ∈ errors ↔ ∃ r, r < u.nerr.toNat ∧ (u.errloc.read r).toNat = l

variable {s : Block} {sent : Memory} {k npar : Nat}
  (hsent : ∀ j, j < npar → syndrome (sent.bytes 0 (k + npar)) j = 0)
include hsent

theorem coeff_receivedSyndromes_eq_polyValue (j : Nat) (hj : j < npar) :
    coeff (s.receivedSyndromes k npar) j =
      polyValue (k + npar) (errorPolynomial sent s.dbuf (k + npar)) (j + 1) :=
  (s.coeff_receivedSyndromes hj).trans (syndrome_eq_polyValue_error _ (hsent j hj))

/-- Without errors the decode ends at its first test. -/
theorem decodeCodeword_restores_undamaged
    (h : damagedLocations sent s.dbuf (k + npar) = ∅) :
    (s.decodeCodeword k npar).Restored sent (k + npar) ∅ := by
  have zero : ∀ l, l < k + npar → errorPolynomial sent s.dbuf (k + npar) l = 0 := fun l hl => by
    by_contra hw
    exact Finset.notMem_empty l (h ▸ mem_errorSupport.2 ⟨hl, hw⟩)
  have clean : (s.computeSyndromes k npar).synnz = 0 := (s.computeSyndromes_synnz k npar).2 fun j hj => by
    rw [syndrome_eq_polyValue_error _ (hsent j hj), polyValue_congr zero]
    exact polyValue_zeros _ _
  rw [s.decodeCodeword_of_synnz_eq_zero clean]
  refine ⟨rfl, fun i hi => ?_, rfl, fun l => iff_of_false (Finset.notMem_empty l) ?_⟩
  · have same := errorPolynomial_eq_zero_iff.1 (zero (k + npar - 1 - i) (by omega))
    rwa [show k + npar - 1 - (k + npar - 1 - i) = i by omega] at same
  · rintro ⟨r, hr, -⟩
    exact absurd hr (Nat.not_lt_zero r)

variable (hn : k + npar ≤ 255)
  (hw : 2 * (damagedLocations sent s.dbuf (k + npar)).card ≤ npar)
include hn hw

/-- The locations found are those of the errors. -/
theorem toFinset_foundLocations :
    (s.foundLocations k npar).toFinset = damagedLocations sent s.dbuf (k + npar) :=
  toFinset_errorLocations hn (coeff_receivedSyndromes_eq_polyValue hsent) hw

theorem mem_foundLocations_iff {l : Nat} :
    l ∈ s.foundLocations k npar ↔ l ∈ damagedLocations sent s.dbuf (k + npar) := by
  rw [← toFinset_foundLocations hsent hn hw, List.mem_toFinset]

/-- The corrections are the errors (42_rs_decoder.md R155, R159). -/
theorem receivedCorrections_eq_errors
    (h1 : (damagedLocations sent s.dbuf (k + npar)).Nonempty) :
    s.receivedCorrections k npar =
      some ((s.foundLocations k npar).map (errorPolynomial sent s.dbuf (k + npar))) := by
  have mem {l : Nat} := mem_foundLocations_iff (l := l) hsent hn hw
  obtain ⟨l1, hl1⟩ := h1
  exact s.receivedCorrections_eq_some k npar (List.ne_nil_of_mem (mem.2 hl1))
    (fun l hl => (mem_errorSupport.1 (mem.1 hl)).1)
    fun l hl => errorMagnitude_eq hn (coeff_receivedSyndromes_eq_polyValue hsent) hw (mem.1 hl)

/-- With errors the decode finds them, and each located byte is changed back to the one sent. -/
theorem decodeCodeword_restores_damaged
    (h1 : (damagedLocations sent s.dbuf (k + npar)).Nonempty) :
    (s.decodeCodeword k npar).Restored sent (k + npar)
      (damagedLocations sent s.dbuf (k + npar)) := by
  have mem {l : Nat} := mem_foundLocations_iff (l := l) hsent hn hw
  have nonzero := computeSyndromes_synnz_of_errors hn hsent h1 (by omega)
  obtain ⟨hresult, hlocated, hother⟩ :=
    s.decodeCodeword_repairs nonzero (receivedCorrections_eq_errors hsent hn hw h1)
  obtain ⟨-, -, herrloc, hnerr⟩ := s.decodeCodeword_solver nonzero
  refine ⟨hresult, fun i hi => ?_, ?_, fun l => ?_⟩
  · by_cases hdiff : s.dbuf.read i = sent.read i
    · refine (hother i fun l hl => ?_).trans hdiff
      rintro rfl
      exact (mem_errorSupport.1 (mem.1 hl)).2 (errorPolynomial_eq_zero_iff.2 hdiff)
    · have repaired := hlocated _ (mem.2 ((mem_damagedLocations_iff hi).2 hdiff))
      rw [errorPolynomial, wordPolynomial, wordPolynomial, show k + npar - 1 - (k + npar - 1 - i) = i by omega,
        ← BitVec.xor_assoc, BitVec.xor_self, BitVec.zero_xor] at repaired
      exact repaired
  · rw [hnerr, solved_nerr_toNat, ← toFinset_foundLocations hsent hn hw]
    exact (List.toFinset_card_of_nodup (nodup_errorLocations _ npar)).symm
  · rw [herrloc, hnerr, exists_solved_errloc_iff]
    exact mem.symm

/-- Any word with at most half as many errors as parity bytes is restored (42_rs_decoder.md R159). -/
theorem decodeCodeword_restores :
    (s.decodeCodeword k npar).Restored sent (k + npar)
      (damagedLocations sent s.dbuf (k + npar)) := by
  rcases Finset.eq_empty_or_nonempty (damagedLocations sent s.dbuf (k + npar)) with h | h
  · rw [h]
    exact decodeCodeword_restores_undamaged hsent h
  · exact decodeCodeword_restores_damaged hsent hn hw h

end Block

/-- Settles O44: the solver's length is at most the number of errors, so its locator has the errors as its only roots
and the magnitudes are the errors. -/
theorem repairsUpToTheBudget : Obligations.RepairsUpToTheBudget := by
  unfold Obligations.RepairsUpToTheBudget
  intro k npar s t u received h0 hn ht hle hu
  obtain rfl := next_unique (exec_rsdec h0 hn _) hu
  rw [← card_damagedLocations] at hle ⊢
  obtain ⟨hresult, hword, hcount, hlocations⟩ := Block.decodeCodeword_restores
    (s := { t.toBlock with dbuf := received }) (syndrome_of_exec_rsenc h0 hn ht) hn (by dsimp only; omega)
  exact ⟨hresult, hword, hcount, fun i hi => (mem_damagedLocations_iff hi).symm.trans (hlocations _)⟩

/-- One byte written is at most one error, at the location of the byte. -/
theorem damagedLocations_write_subset (m : Memory) (n i : Nat) (data : Byte) :
    damagedLocations m (m.write i data) n ⊆ {n - 1 - i} := by
  intro l hl
  obtain ⟨hln, hw⟩ := mem_errorSupport.1 hl
  have hi : i = n - 1 - l := by
    by_contra hne
    exact hw (errorPolynomial_eq_zero_iff.2 (Memory.read_write_other m data hne))
  exact Finset.mem_singleton.2 (by omega)

/-- Settles O43: one byte written is at most one error, within the budget of two parity bytes. -/
theorem oneByteErrorIsRepaired : Obligations.OneByteErrorIsRepaired := by
  unfold Obligations.OneByteErrorIsRepaired
  intro k npar i data s t d u h2 hn hi ht hd hu
  obtain rfl := next_unique (exec_wrb (placeAt_dbuf (show i ≤ 0x0FE by omega)) rfl data t) hd
  obtain rfl := next_unique (exec_rsdec (by omega) hn _) hu
  have errors := damagedLocations_write_subset t.dbuf (k + npar) i data
  have few := Finset.card_le_card errors
  rw [Finset.card_singleton] at few
  obtain ⟨hresult, hword, hcount, hlocations⟩ := Block.decodeCodeword_restores (s := t.store (.dbuf i) data)
    (syndrome_of_exec_rsenc (by omega) hn ht) hn ((Nat.mul_le_mul_left 2 few).trans h2)
  refine ⟨hresult, fun j => ?_, fun hdata => ?_⟩
  · rcases Nat.lt_or_ge j (k + npar) with hj | hj
    · exact hword j hj
    · refine (Block.decodeCodeword_read_above _ (by omega) hj).trans ?_
      exact Memory.read_write_other t.dbuf data (by omega)
  · have damaged : k + npar - 1 - i ∈ damagedLocations t.dbuf (t.dbuf.write i data) (k + npar) :=
      (mem_damagedLocations_iff hi).2 (by rwa [Memory.read_write_same])
    have one := hcount.trans (Nat.le_antisymm few (Finset.card_pos.2 ⟨_, damaged⟩))
    obtain ⟨r, hr, hloc⟩ := (hlocations _).1 damaged
    obtain rfl : r = 0 := by omega
    exact ⟨BitVec.eq_of_toNat_eq one, hloc⟩

end Sys2Proof.Machine
end

section
/-! PROOF. The checksum (43_frame_codec.md R181): a polynomial with a constant term makes every step of the register
reversible, so two byte strings that differ in one byte have different checksums. -/

namespace Sys2Proof.Machine

/-! ## One step and one byte -/

theorem getLsbD_crcBit_zero (p c : Byte) : (crcBit p c).getLsbD 0 = (c.getLsbD 7 && p.getLsbD 0) := by
  unfold crcBit
  cases c.getLsbD 7 <;> simp

/-- A higher bit of the register after one step: its lower neighbour, and the polynomial's when a 1 was shifted out. -/
theorem getLsbD_crcBit_succ (p c : Byte) {i : Nat} (hi : i + 1 < 8) :
    (crcBit p c).getLsbD (i + 1) = (c.getLsbD i ^^ (c.getLsbD 7 && p.getLsbD (i + 1))) := by
  have shifted : (c <<< 1).getLsbD (i + 1) = c.getLsbD i := by
    rw [BitVec.getLsbD_shiftLeft, decide_eq_true hi]
    simp only [Nat.not_lt.2 (Nat.le_add_left 1 i), decide_false, Bool.not_false, Bool.true_and, Nat.add_sub_cancel]
  unfold crcBit
  cases c.getLsbD 7
  · exact shifted.trans (Bool.xor_false _).symm
  · rw [if_pos rfl, BitVec.getLsbD_xor, shifted, Bool.true_and]

/-- Bit 0 after a step says which bit was shifted out, so no two registers lead to the same one. -/
theorem crcBit_injective {p : Byte} (hp : p.getLsbD 0 = true) : Function.Injective (crcBit p) := by
  intro c d h
  have top : c.getLsbD 7 = d.getLsbD 7 := by
    have bits := congrArg (BitVec.getLsbD · 0) h
    simpa only [getLsbD_crcBit_zero, hp, Bool.and_true] using bits
  refine BitVec.eq_of_getLsbD_eq fun i hi => ?_
  rcases Nat.lt_or_ge i 7 with hlow | hhigh
  · have bits := congrArg (BitVec.getLsbD · (i + 1)) h
    simpa only [getLsbD_crcBit_succ _ _ (Nat.succ_lt_succ hlow), top, Bool.xor_left_inj] using bits
  · rwa [show i = 7 by omega]

theorem crcBits_injective {p : Byte} (hp : p.getLsbD 0 = true) (n : Nat) : Function.Injective (crcBits p n) := by
  induction n with
  | zero => exact Function.injective_id
  | succ n ih => exact ih.comp (crcBit_injective hp)

theorem crcByte_inj_register {p c d b : Byte} (hp : p.getLsbD 0 = true) (h : crcByte p c b = crcByte p d b) : c = d :=
  (BitVec.xor_left_inj _).1 (crcBits_injective hp 8 h)

theorem crcByte_inj_byte {p c a b : Byte} (hp : p.getLsbD 0 = true) (h : crcByte p c a = crcByte p c b) : a = b :=
  (BitVec.xor_right_inj _).1 (crcBits_injective hp 8 h)

theorem foldl_crcByte_inj {p : Byte} (hp : p.getLsbD 0 = true) (bytes : List Byte) {c d : Byte}
    (h : bytes.foldl (crcByte p) c = bytes.foldl (crcByte p) d) : c = d := by
  induction bytes generalizing c d with
  | nil => exact h
  | cons b bytes ih => exact crcByte_inj_register hp (ih h)

/-! ## Byte strings -/

/-- Equal checksums of two strings with equal ends come from equal bytes in the middle. -/
theorem crcWith_inj_middle {p : Config.ChecksumParameters} (hp : p.polynomial.getLsbD 0 = true) {front back : List Byte}
    {a b : Byte} (h : crcWith p (front ++ a :: back) = crcWith p (front ++ b :: back)) : a = b := by
  have folds := (BitVec.xor_left_inj _).1 h
  simp only [List.foldl_append, List.foldl_cons] at folds
  exact crcByte_inj_byte hp (foldl_crcByte_inj hp back folds)

theorem Memory.bytes_congr {m m' : Memory} {base base' n : Nat}
    (h : ∀ i, i < n → m.read (base + i) = m'.read (base' + i)) : m.bytes base n = m'.bytes base' n :=
  List.map_congr_left fun i hi => h i (List.mem_range.1 hi)

theorem Memory.bytes_split (m : Memory) (base : Nat) {j n : Nat} (h : j < n) :
    m.bytes base n = m.bytes base j ++ m.read (base + j) :: m.bytes (base + (j + 1)) (n - 1 - j) := by
  obtain ⟨r, rfl⟩ : ∃ r, n = j + (1 + r) := ⟨n - 1 - j, by omega⟩
  rw [bytes_add, bytes_add, show j + (1 + r) - 1 - j = r by omega, Nat.add_assoc base j 1]
  rfl

/-- The polynomial of R181 has a constant term. -/
theorem checksum_polynomial_odd : Config.checksum.polynomial.getLsbD 0 = true := by
  decide

/-- One byte changed changes the checksum (43_frame_codec.md R199 item 3; log entry 3). -/
theorem crc8_ne_of_one_byte {m m' : Memory} {base j n : Nat} (hj : j < n) (hne : m.read (base + j) ≠ m'.read (base + j))
    (same : ∀ i, i ≠ base + j → m.read i = m'.read i) : crc8 (m.bytes base n) ≠ crc8 (m'.bytes base n) := by
  have front : m.bytes base j = m'.bytes base j := Memory.bytes_congr fun i hi => same _ (by omega)
  have back : m.bytes (base + (j + 1)) (n - 1 - j) = m'.bytes (base + (j + 1)) (n - 1 - j) :=
    Memory.bytes_congr fun i hi => same _ (by omega)
  rw [m.bytes_split base hj, m'.bytes_split base hj, front, back]
  exact mt (crcWith_inj_middle checksum_polynomial_odd) hne

end Sys2Proof.Machine
end

section
/-! PROOF. `FRBUILD` (43_frame_codec.md R180 to R184): what it writes, and the frame byte by byte. -/

namespace Sys2Proof.Machine

/-! ## Flags and lengths -/

/-- The flags byte is the inverted feature bits below five 1 bits (43_frame_codec.md R183). -/
theorem wireFlags_eq_append (cfg : BitVec 3) :
    wireFlags (usesCompression cfg) (usesChecksum cfg) (usesFec cfg) = 0x1F#5 ++ ~~~cfg := by
  revert cfg
  decide

/-- The features a flags byte announces are those it was built with. -/
@[simp] theorem checksumActive_append (cfg : BitVec 3) : checksumActive (0x1F#5 ++ ~~~cfg) = usesChecksum cfg := by
  revert cfg
  decide

@[simp] theorem fecActive_append (cfg : BitVec 3) : fecActive (0x1F#5 ++ ~~~cfg) = usesFec cfg := by
  revert cfg
  decide

theorem frameLength_le {checksum : Bool} {n : Nat} (h : n ≤ 255) : frameLength checksum n ≤ 258 := by
  unfold frameLength
  split <;> omega

/-! ## The effect of `FRBUILD` -/

namespace Block

variable (s : Block) (k : Nat)

/-- The block after the encoder's part of `FRBUILD`: `RSENC` when FEC is on (43_frame_codec.md R184). -/
def encodedFor : Block := if usesFec s.cfg then s.encodePayload k (2 * s.tbudget.toNat) else s

/-- The length of the body that `FRBUILD` sends (43_frame_codec.md R180). -/
def builtBodyLength : Nat := bodyLength (usesFec s.cfg) k s.tbudget.toNat

/-- The body that `FRBUILD` sends (43_frame_codec.md R184). -/
def builtBody : List Byte := (s.encodedFor k).dbuf.bytes 0 (s.builtBodyLength k)

/-- The frame that `FRBUILD` sends (43_frame_codec.md R180). -/
def builtFrame : List Byte :=
  [0x1F#5 ++ ~~~s.cfg, BitVec.ofNat 8 k] ++ s.builtBody k ++
    if usesChecksum s.cfg then [crc8 (s.builtBody k)] else []

/-- What `FRBUILD` writes (43_frame_codec.md R184). -/
theorem buildFrame_eq_update :
    s.buildFrame k =
      { s with
        dbuf := (s.encodedFor k).dbuf, gen := (s.encodedFor k).gen, par := (s.encodedFor k).par
        fbuf := s.fbuf.writeBytes 0 (s.builtFrame k)
        flen := BitVec.ofNat 9 (frameLength (usesChecksum s.cfg) (s.builtBodyLength k))
        plen := BitVec.ofNat 8 k, result := 0 } := by
  unfold buildFrame builtFrame builtBody encodedFor
  rw [← wireFlags_eq_append]
  dsimp only
  split <;> rfl

theorem encodedFor_of_fec (h : usesFec s.cfg = true) :
    s.encodedFor k = s.encodePayload k (2 * s.tbudget.toNat) := if_pos h

theorem encodedFor_of_not_fec (h : usesFec s.cfg = false) : s.encodedFor k = s := if_neg (by simp [h])

/-- The payload is sent as it stood in `DBUF`. -/
theorem encodedFor_read_payload {i : Nat} (h : i < k) : (s.encodedFor k).dbuf.read i = s.dbuf.read i := by
  cases hfec : usesFec s.cfg with
  | false => rw [s.encodedFor_of_not_fec k hfec]
  | true => rw [s.encodedFor_of_fec k hfec, encodePayload_read_outside _ (.inl h)]

@[simp] theorem length_builtBody : (s.builtBody k).length = s.builtBodyLength k := Memory.length_bytes _ _ _

@[simp] theorem length_builtFrame : (s.builtFrame k).length = frameLength (usesChecksum s.cfg) (s.builtBodyLength k) := by
  unfold builtFrame frameLength
  split <;> simp <;> omega

/-- What `FRBUILD` needs to accept the payload: its length is a byte, and with FEC the codeword fits
(43_frame_codec.md R184). -/
def Accepts : Prop := k ≤ 255 ∧ (usesFec s.cfg = true → k + 2 * s.tbudget.toNat ≤ 255)

namespace Accepts

variable {s k} (h : s.Accepts k)
include h

theorem payload : k ≤ 255 := h.1

theorem codeword : usesFec s.cfg = true → k + 2 * s.tbudget.toNat ≤ 255 := h.2

/-- A body that is accepted is 255 bytes long at most (43_frame_codec.md R180). -/
theorem builtBodyLength_le : s.builtBodyLength k ≤ 255 := by
  unfold builtBodyLength bodyLength
  split
  · exact h.codeword ‹_›
  · exact h.payload

/-- `FLEN` holds the length of the frame (43_frame_codec.md R184). -/
theorem flen : (s.buildFrame k).flen.toNat = frameLength (usesChecksum s.cfg) (s.builtBodyLength k) := by
  have := frameLength_le (checksum := usesChecksum s.cfg) h.builtBodyLength_le
  rw [buildFrame_eq_update, BitVec.toNat_ofNat]
  exact Nat.mod_eq_of_lt (by omega)

theorem flen_le : (s.buildFrame k).flen.toNat ≤ 258 := h.flen.trans_le (frameLength_le h.builtBodyLength_le)

/-- The length byte holds the payload length. -/
theorem toNat_length : (BitVec.ofNat 8 k).toNat = k := by
  rw [BitVec.toNat_ofNat]
  exact Nat.mod_eq_of_lt (by have := h.payload; omega)

end Accepts

/-! ## The frame byte by byte -/

theorem buildFrame_fbuf_read {i : Nat} (h : i < frameLength (usesChecksum s.cfg) (s.builtBodyLength k)) :
    (s.buildFrame k).fbuf.read i = (s.builtFrame k).getD i 0 := by
  rw [← length_builtFrame] at h
  rw [buildFrame_eq_update, ← s.fbuf.read_writeBytes_in h, Nat.zero_add]

theorem buildFrame_flags : (s.buildFrame k).fbuf.read 0 = 0x1F#5 ++ ~~~s.cfg :=
  s.buildFrame_fbuf_read k (by unfold frameLength; omega)

theorem buildFrame_length : (s.buildFrame k).fbuf.read 1 = BitVec.ofNat 8 k :=
  s.buildFrame_fbuf_read k (by unfold frameLength; omega)

/-- The body of the frame is what `DBUF` holds after the encoder. -/
theorem buildFrame_body {i : Nat} (h : i < s.builtBodyLength k) :
    (s.buildFrame k).fbuf.read (2 + i) = (s.buildFrame k).dbuf.read i := by
  have body : (s.builtFrame k).getD (2 + i) 0 = (s.builtBody k).getD i 0 := by
    rw [Nat.add_comm, builtFrame, List.append_assoc]
    exact List.getD_append (s.builtBody k) _ _ _ (by simpa using h)
  rw [s.buildFrame_fbuf_read k (by unfold frameLength; omega), body, builtBody, Memory.getD_bytes _ h, Nat.zero_add,
    buildFrame_eq_update]

theorem buildFrame_checksum (h : usesChecksum s.cfg = true) :
    (s.buildFrame k).fbuf.read (2 + s.builtBodyLength k) =
      crc8 ((s.buildFrame k).dbuf.bytes 0 (s.builtBodyLength k)) := by
  have last : (s.builtFrame k).getD (2 + s.builtBodyLength k) 0 = crc8 (s.builtBody k) := by
    rw [Nat.add_comm, builtFrame, List.append_assoc, if_pos h]
    exact (List.getD_append_right (s.builtBody k) _ _ _ (by simp)).trans (by simp)
  rw [s.buildFrame_fbuf_read k (by simp [frameLength, h]), last, builtBody, buildFrame_eq_update]

theorem buildFrame_fbuf_above {i : Nat} (h : frameLength (usesChecksum s.cfg) (s.builtBodyLength k) ≤ i) :
    (s.buildFrame k).fbuf.read i = s.fbuf.read i := by
  rw [buildFrame_eq_update]
  exact Memory.read_writeBytes_out _ (.inr (by rwa [length_builtFrame, Nat.zero_add]))

end Block

/-! ## The statement -/

/-- `FRBUILD` on a payload it accepts. -/
theorem exec_frbuild {k : Nat} {s : State} (hs : s.Accepts k) :
    exec (.frbuild k) s = .next (s.onBlock (·.buildFrame k)) :=
  if_pos ((buildInRange_iff _ _ _).2 hs)

/-- Settles O46: the frame is written whole, and with FEC the encoder runs first. -/
theorem frbuildWritesTheFrame : Obligations.FrbuildWritesTheFrame := by
  unfold Obligations.FrbuildWritesTheFrame
  intro k s fec chk t2 n hk hfec
  have hs : s.Accepts k := ⟨hk, fun h => (hfec h).2⟩
  have flen : (s.buildFrame k).flen.toNat = 2 + n + if chk then 1 else 0 := hs.flen
  have effect := s.buildFrame_eq_update k
  refine ⟨_, exec_frbuild hs, ?_, flen, s.buildFrame_flags k, s.buildFrame_length k,
    fun i => s.buildFrame_body k, s.buildFrame_checksum k, fun i hi => ?_, fun h => ?_, fun h => ?_⟩
  · rw [State.onBlock_toBlock, effect]
    exact congrArg (fun b => { s with toBlock := b }) effect
  · exact s.buildFrame_fbuf_above k (flen.symm.trans_le hi)
  · rw [State.onBlock_toBlock, effect, s.encodedFor_of_not_fec k h]
    exact ⟨rfl, rfl, rfl⟩
  · obtain ⟨h0, hn⟩ := hfec h
    rw [State.onBlock_toBlock, effect, s.encodedFor_of_fec k h]
    exact ⟨_, exec_rsenc h0 hn s, rfl, rfl, rfl⟩

end Sys2Proof.Machine
end

section
/-! PROOF. `FRPARSE` (43_frame_codec.md R190 to R195): the length test, the body, and what steers the parse. -/

namespace Sys2Proof.Machine

/-! ## `FRPARSE` on its operand -/

theorem exec_frparse {len : Nat} (h : len ≤ 258) (s : State) :
    exec (.frparse len) s = .next (s.onBlock (·.parseFrame len)) :=
  if_pos ((parseInRange_iff len).2 h)

theorem exec_frparse_too_long {len : Nat} (h : 258 < len) (s : State) :
    exec (.frparse len) s = .next (s.onBlock (·.raise .operandRange)) :=
  if_neg (mt (parseInRange_iff len).1 (by omega))

namespace Block

variable (s : Block) {len : Nat}

/-! ## The length test -/

/-- The length of the body that the header in `FBUF` announces (43_frame_codec.md R190). -/
def receivedBodyLength : Nat :=
  bodyLength (fecActive (s.fbuf.read 0)) (s.fbuf.read 1).toNat s.tbudget.toNat

/-- The length test of 43_frame_codec.md R192, for a frame that has its two header bytes. -/
def LengthFits (len : Nat) : Prop :=
  s.receivedBodyLength ≤ 255 ∧ len = frameLength (checksumActive (s.fbuf.read 0)) s.receivedBodyLength

/-- The registers a parse takes from the frame before it tests the length (43_frame_codec.md R190). -/
def takeHeader (len : Nat) : Block := ((s.setFlen len).setRxflags (s.fbuf.read 0)).setPlen (s.fbuf.read 1)

theorem not_lengthFits_iff :
    ¬ s.LengthFits len ↔
      255 < s.receivedBodyLength ∨ len ≠ frameLength (checksumActive (s.fbuf.read 0)) s.receivedBodyLength := by
  rw [LengthFits, not_and_or, Nat.not_le]

theorem LengthFits.two_le {s : Block} (h : s.LengthFits len) : 2 ≤ len := by
  have := h.2
  unfold frameLength at this
  omega

theorem LengthFits.le {s : Block} (h : s.LengthFits len) : len ≤ 258 := h.2.trans_le (frameLength_le h.1)

/-- A frame without its header is rejected before anything is taken from it (43_frame_codec.md R192). -/
theorem parseFrame_of_short (h : len < 2) : s.parseFrame len = (s.setFlen len).setResult .corruptLength := if_pos h

/-- A frame whose length does not fit is rejected with its header taken (43_frame_codec.md R192). -/
theorem parseFrame_of_not_fits (h2 : 2 ≤ len) (h : ¬ s.LengthFits len) :
    s.parseFrame len = (s.takeHeader len).setResult .corruptLength := by
  rcases s.parseFrame_cases len with ⟨hlt, -⟩ | ⟨-, _, _, _, rfl, rfl, rfl, ⟨-, heq⟩ | ⟨hn, hlen, -⟩⟩
  · omega
  · exact heq
  · exact absurd ⟨hn, hlen⟩ h

/-- A frame whose length fits is parsed further (43_frame_codec.md R193). -/
theorem parseFrame_of_fits (h : s.LengthFits len) :
    s.parseFrame len =
      (s.takeHeader len).parseBody (checksumActive (s.fbuf.read 0)) (fecActive (s.fbuf.read 0)) (s.fbuf.read 1).toNat
        s.tbudget.toNat := by
  rcases s.parseFrame_cases len with ⟨hlt, -⟩ | ⟨-, _, _, _, rfl, rfl, rfl, ⟨hbad, -⟩ | ⟨-, -, heq⟩⟩
  · have := h.two_le
    omega
  · exact absurd h (s.not_lengthFits_iff.2 hbad)
  · exact heq

/-! ## The body -/

/-- The block with the body of the frame copied to `DBUF` (43_frame_codec.md R193). -/
def copyBody (n : Nat) : Block := s.writeDbuf 0 (s.fbuf.bytes 2 n)

theorem copyBody_read_body {i n : Nat} (h : i < n) : (s.copyBody n).dbuf.read i = s.fbuf.read (2 + i) := by
  have copied := s.dbuf.read_writeBytes_in (base := 0) (bs := s.fbuf.bytes 2 n) (by simpa using h)
  rwa [Memory.getD_bytes _ h, Nat.zero_add] at copied

theorem copyBody_read_above {i n : Nat} (h : n ≤ i) : (s.copyBody n).dbuf.read i = s.dbuf.read i :=
  Memory.read_writeBytes_out _ (.inr (by simpa using h))

/-- The end of a parse writes `RESULT` only (43_frame_codec.md R194, R195). -/
theorem validateChecksum_eq_update (checksum : Bool) {n : Nat} {received : Byte}
    (hreceived : s.fbuf.read (2 + n) = received) :
    s.validateChecksum checksum n =
      { s with result := if checksum = true ∧ crc8 (s.dbuf.bytes 0 n) ≠ received then 1 else 0 } := by
  subst hreceived
  rcases s.validateChecksum_cases checksum n with ⟨hchk, hne, heq⟩ | ⟨hok, heq⟩
  · rw [heq, if_pos ⟨hchk, hne⟩]
    rfl
  · rw [heq, if_neg fun h => h.2 (hok h.1)]
    rfl

/-- Without FEC the body is validated as it came (43_frame_codec.md R193, R194). -/
theorem parseBody_of_not_fec {fec : Bool} (h : fec = false) (checksum : Bool) (k t : Nat) :
    s.parseBody checksum fec k t =
      (s.copyBody (bodyLength fec k t)).validateChecksum checksum (bodyLength fec k t) := if_neg (by simp [h])

/-- The block after the decoder's part of a parse (43_frame_codec.md R193). -/
def decodeBody (fec : Bool) (k t : Nat) : Block := (s.copyBody (bodyLength fec k t)).decodeCodeword k (2 * t)

/-- With FEC the body is repaired before it is validated, and a word given up ends the parse (43_frame_codec.md R193). -/
theorem parseBody_of_fec {fec : Bool} (h : fec = true) (checksum : Bool) (k t : Nat) :
    s.parseBody checksum fec k t =
      if (s.decodeBody fec k t).result = 2 then s.decodeBody fec k t
      else (s.decodeBody fec k t).validateChecksum checksum (bodyLength fec k t) := if_pos h

@[simp] theorem decodeBody_fbuf (fec : Bool) (k t : Nat) : (s.decodeBody fec k t).fbuf = s.fbuf :=
  decodeCodeword_fbuf _ _ _

theorem parseFrame_rxflags (len : Nat) :
    (s.parseFrame len).rxflags = if 2 ≤ len then s.fbuf.read 0 else s.rxflags := by
  by_cases h2 : 2 ≤ len
  · rw [if_pos h2]
    by_cases hfits : s.LengthFits len
    · rw [s.parseFrame_of_fits hfits, parseBody_rxflags]
      rfl
    · rw [s.parseFrame_of_not_fits h2 hfits]
      rfl
  · rw [if_neg h2, s.parseFrame_of_short (by omega)]
    rfl

end Block

/-! ## The statements on lengths and bodies -/

/-- Settles O47: the tests of R190 and R192 come before the copy. -/
theorem frparseRejectsBadLengths : Obligations.FrparseRejectsBadLengths := by
  unfold Obligations.FrparseRejectsBadLengths
  intro len s fec chk n
  refine ⟨fun hlong => exec_frparse_too_long hlong s, fun hshort => ?_, fun h2 hle hbad => ?_⟩
  · rw [exec_frparse (by omega), State.onBlock, s.parseFrame_of_short hshort]
    rfl
  · rw [exec_frparse hle, State.onBlock, s.parseFrame_of_not_fits h2 (s.not_lengthFits_iff.2 hbad)]
    rfl

/-- Settles O48: the decoder works on the block with the header taken and the body copied, and the checksum is compared
over what it leaves. -/
theorem frparseRepairsThenValidates : Obligations.FrparseRepairsThenValidates := by
  unfold Obligations.FrparseRepairsThenValidates
  intro len s fec chk k t2 n verdict hn hlen hfec
  have fits : s.LengthFits len := ⟨hn, hlen⟩
  refine ⟨_, (s.copyBody n).dbuf, fun i => s.copyBody_read_body, fun i => s.copyBody_read_above,
    exec_frparse fits.le s, fun h => ?_, fun h => ?_⟩
  · have plain : fecActive (s.fbuf.read 0) = false := h
    rw [State.onBlock, s.parseFrame_of_fits fits, Block.parseBody_of_not_fec _ plain,
      Block.validateChecksum_eq_update _ _ rfl]
    rfl
  · have coded : fecActive (s.fbuf.read 0) = true := h
    have hk : n = k + t2 := by simp [n, h]
    refine ⟨_, exec_rsdec (hfec h) (hk ▸ hn) _, ?_⟩
    rw [State.onBlock, s.parseFrame_of_fits fits, Block.parseBody_of_fec _ coded]
    by_cases givenUp : ((s.takeHeader len).decodeBody (fecActive (s.fbuf.read 0)) k s.tbudget.toNat).result = 2
    · rw [if_pos givenUp]
      exact (if_pos givenUp).symm
    · rw [if_neg givenUp, Block.validateChecksum_eq_update _ _ (by rw [Block.decodeBody_fbuf])]
      exact (if_neg givenUp).symm

end Sys2Proof.Machine
end

section
/-! PROOF. What steers `FRPARSE` (43_frame_codec.md R191): a parse of a block with another `CFG`, another `RXFLAGS` and a
frame that differs in the unused flag bits only is the same parse. -/

namespace Sys2Proof.Machine

namespace Block

/-- The block with `CFG`, `FBUF` and `RXFLAGS` replaced. -/
def withSteering (s : Block) (cfg : BitVec 3) (fbuf : Memory) (rxflags : Byte) : Block :=
  { s with cfg := cfg, fbuf := fbuf, rxflags := rxflags }

section Replaced

variable (s : Block) (cfg : BitVec 3) (fbuf : Memory) (rxflags : Byte)

/-! ## The decoder reads none of the three -/

theorem correct_withSteering (n : Nat) (is : List Nat) (es : List Byte) :
    (s.withSteering cfg fbuf rxflags).correct n is es = (s.correct n is es).withSteering cfg fbuf rxflags := by
  induction is generalizing s es with
  | nil => cases es <;> rfl
  | cons i is ih => cases es with
    | nil => rfl
    | cons e es => exact ih (s.writeDbuf (n - 1 - i) [s.dbuf.read (n - 1 - i) ^^^ e]) es

theorem decodeCodeword_of_no_corrections {s : Block} {k npar : Nat} (h : (s.computeSyndromes k npar).synnz ≠ 0)
    (hc : s.receivedCorrections k npar = none) :
    s.decodeCodeword k npar = (s.solved k npar).setResult .unrepairable := by
  rcases s.decodeCodeword_of_synnz_ne_zero h with ⟨-, heq⟩ | ⟨es, hes, -⟩
  · exact heq
  · cases hc.symm.trans hes

theorem decodeCodeword_of_corrections {s : Block} {k npar : Nat} {es : List Byte}
    (h : (s.computeSyndromes k npar).synnz ≠ 0) (hc : s.receivedCorrections k npar = some es) :
    s.decodeCodeword k npar = ((s.solved k npar).correct (k + npar) (s.foundLocations k npar) es).setResult .ok := by
  rcases s.decodeCodeword_of_synnz_ne_zero h with ⟨hnone, -⟩ | ⟨es', hes, heq⟩
  · cases hc.symm.trans hnone
  · obtain rfl := Option.some.inj (hc.symm.trans hes)
    exact heq

theorem decodeCodeword_withSteering (k npar : Nat) :
    (s.withSteering cfg fbuf rxflags).decodeCodeword k npar =
      (s.decodeCodeword k npar).withSteering cfg fbuf rxflags := by
  by_cases h : (s.computeSyndromes k npar).synnz = 0
  · rw [s.decodeCodeword_of_synnz_eq_zero h]
    exact decodeCodeword_of_synnz_eq_zero (s.withSteering cfg fbuf rxflags) h
  · cases hc : s.receivedCorrections k npar with
    | none =>
      rw [decodeCodeword_of_no_corrections h hc]
      exact decodeCodeword_of_no_corrections (s := s.withSteering cfg fbuf rxflags) h hc
    | some es =>
      rw [decodeCodeword_of_corrections h hc]
      exact (decodeCodeword_of_corrections (s := s.withSteering cfg fbuf rxflags) h hc).trans
        (congrArg (·.setResult .ok) ((s.solved k npar).correct_withSteering cfg fbuf rxflags _ _ es))

/-! ## A parse reads the frame only -/

variable {fbuf}

theorem copyBody_withSteering {n : Nat} (h : ∀ i, 1 ≤ i → fbuf.read i = s.fbuf.read i) :
    (s.withSteering cfg fbuf rxflags).copyBody n = (s.copyBody n).withSteering cfg fbuf rxflags := by
  have body : fbuf.bytes 2 n = s.fbuf.bytes 2 n := Memory.bytes_congr fun i _ => h (2 + i) (by omega)
  exact congrArg (fun bs => (s.writeDbuf 0 bs).withSteering cfg fbuf rxflags) body

theorem validateChecksum_withSteering {checksum : Bool} {n : Nat} (h : fbuf.read (2 + n) = s.fbuf.read (2 + n)) :
    (s.withSteering cfg fbuf rxflags).validateChecksum checksum n =
      (s.validateChecksum checksum n).withSteering cfg fbuf rxflags := by
  rw [validateChecksum_eq_update _ checksum h, validateChecksum_eq_update s checksum rfl]
  rfl

theorem parseBody_withSteering {checksum fec : Bool} {k t : Nat} (h : ∀ i, 1 ≤ i → fbuf.read i = s.fbuf.read i) :
    (s.withSteering cfg fbuf rxflags).parseBody checksum fec k t =
      (s.parseBody checksum fec k t).withSteering cfg fbuf rxflags := by
  have copied := s.copyBody_withSteering cfg rxflags (n := bodyLength fec k t) h
  have last := h (2 + bodyLength fec k t) (by omega)
  cases fec with
  | false =>
    rw [parseBody_of_not_fec _ rfl, parseBody_of_not_fec _ rfl, copied]
    exact validateChecksum_withSteering _ _ _ last
  | true =>
    have decoded : (s.withSteering cfg fbuf rxflags).decodeBody true k t =
        (s.decodeBody true k t).withSteering cfg fbuf rxflags := by
      rw [decodeBody, copied, decodeCodeword_withSteering, decodeBody]
    rw [parseBody_of_fec _ rfl, parseBody_of_fec _ rfl, decoded,
      validateChecksum_withSteering _ _ _ (by rwa [decodeBody_fbuf])]
    exact (apply_ite (fun b : Block => b.withSteering cfg fbuf rxflags) _ _ _).symm

/-- A parse goes by the bytes from the length byte on and by flag bits 1 and 2 (43_frame_codec.md R191). -/
theorem parseFrame_withSteering {len : Nat} (h : ∀ i, 1 ≤ i → fbuf.read i = s.fbuf.read i)
    (hchk : checksumActive (fbuf.read 0) = checksumActive (s.fbuf.read 0))
    (hfec : fecActive (fbuf.read 0) = fecActive (s.fbuf.read 0)) :
    (s.withSteering cfg fbuf rxflags).parseFrame len =
      (s.parseFrame len).withSteering cfg fbuf (if 2 ≤ len then fbuf.read 0 else rxflags) := by
  have h1 := h 1 (Nat.le_refl 1)
  have hn : (s.withSteering cfg fbuf rxflags).receivedBodyLength = s.receivedBodyLength := by
    simp only [receivedBodyLength, withSteering, hfec, h1]
  have hfits : (s.withSteering cfg fbuf rxflags).LengthFits len ↔ s.LengthFits len := by
    simp only [LengthFits, hn]
    simp only [withSteering, hchk]
  have header : (s.withSteering cfg fbuf rxflags).takeHeader len =
      (s.takeHeader len).withSteering cfg fbuf (fbuf.read 0) := by
    simp only [takeHeader, withSteering, h1]
    rfl
  by_cases h2 : 2 ≤ len
  · rw [if_pos h2]
    by_cases fits : s.LengthFits len
    · rw [s.parseFrame_of_fits fits, parseFrame_of_fits _ (hfits.2 fits), header,
        ← parseBody_withSteering (s.takeHeader len) cfg (fbuf.read 0) h]
      simp only [withSteering, hchk, hfec, h1]
    · rw [s.parseFrame_of_not_fits h2 fits, parseFrame_of_not_fits _ h2 (mt hfits.1 fits), header]
      rfl
  · rw [if_neg h2, s.parseFrame_of_short (by omega), parseFrame_of_short _ (by omega)]
    rfl

end Replaced

variable (s : Block) (len : Nat)

/-- A parse does not read `CFG` (43_frame_codec.md R191). -/
theorem parseFrame_of_cfg (cfg : BitVec 3) :
    ({ s with cfg := cfg } : Block).parseFrame len = { s.parseFrame len with cfg := cfg } := by
  refine (s.parseFrame_withSteering cfg s.rxflags (fun _ _ => rfl) rfl rfl).trans ?_
  rw [← s.parseFrame_rxflags, withSteering, ← s.parseFrame_fbuf len]

/-- A parse reads bits 1 and 2 of the flags byte, and hands on the others in `RXFLAGS` (43_frame_codec.md R191). -/
theorem parseFrame_of_flags {flags : Byte} (hchk : checksumActive flags = checksumActive (s.fbuf.read 0))
    (hfec : fecActive flags = fecActive (s.fbuf.read 0)) :
    ({ s with fbuf := s.fbuf.write 0 flags } : Block).parseFrame len =
      { s.parseFrame len with
        fbuf := s.fbuf.write 0 flags, rxflags := if 2 ≤ len then flags else (s.parseFrame len).rxflags } := by
  have hflags : (s.fbuf.write 0 flags).read 0 = flags := Memory.read_write_same _ _ _
  have latched : (if 2 ≤ len then flags else s.rxflags) = if 2 ≤ len then flags else (s.parseFrame len).rxflags := by
    rw [s.parseFrame_rxflags]
    split <;> rfl
  refine (s.parseFrame_withSteering s.cfg s.rxflags (fun i hi => Memory.read_write_other _ _ (by omega))
    (by rwa [hflags]) (by rwa [hflags])).trans ?_
  rw [hflags, latched, withSteering, ← s.parseFrame_cfg len]

end Block

/-- Settles O49: a parse of the frame with `CFG` or the unused flag bits replaced is the same parse. -/
theorem frparseGoesByTheFrame : Obligations.FrparseGoesByTheFrame := by
  unfold Obligations.FrparseGoesByTheFrame
  refine ⟨fun len s t cfg ht => ?_, fun len s t flags hchk hfec ht => ?_⟩
  · rcases Nat.lt_or_ge 258 len with hlong | hle
    · obtain rfl := next_unique (exec_frparse_too_long hlong s) ht
      exact exec_frparse_too_long hlong _
    · obtain rfl := next_unique (exec_frparse hle s) ht
      exact (exec_frparse hle _).trans
        (congrArg (fun b => Host.Outcome.next { s with toBlock := b }) (s.parseFrame_of_cfg len cfg))
  · rcases Nat.lt_or_ge 258 len with hlong | hle
    · obtain rfl := next_unique (exec_frparse_too_long hlong s) ht
      rw [if_neg (by omega)]
      exact exec_frparse_too_long hlong _
    · obtain rfl := next_unique (exec_frparse hle s) ht
      simp only [and_iff_left hle]
      exact (exec_frparse hle _).trans
        (congrArg (fun b => Host.Outcome.next { s with toBlock := b })
          (s.parseFrame_of_flags len (congrArg (! ·) hchk) (congrArg (! ·) hfec)))

end Sys2Proof.Machine
end

section
/-! PROOF. A frame on its way from `FRBUILD` to `FRPARSE` (43_frame_codec.md R199): unchanged, damaged within what its parity
repairs, or with one bit flipped. -/

namespace Sys2Proof.Machine

/-! ## A frame whose body can be repaired is delivered -/

/-- How many damaged bytes of the body a parse undoes: `T` with FEC, none without (43_frame_codec.md R199). -/
def repairableErrors (fec : Bool) (t : Nat) : Nat := if fec then t else 0

namespace Block

/-- `FBUF` holds the body and the checksum of a frame built from the body `sent`, which is a codeword when FEC is on
(41_rs_encoder.md R126), but for as many damaged body bytes as can be repaired (43_frame_codec.md R180, R199). -/
def HoldsBody (s : Block) (sent : Memory) (checksum fec : Bool) (k t : Nat) : Prop :=
  bodyLength fec k t ≤ 255 ∧
  (fec = true → ∀ j, j < 2 * t → syndrome (sent.bytes 0 (k + 2 * t)) j = 0) ∧
  ((List.range (bodyLength fec k t)).filter fun i => s.fbuf.read (2 + i) ≠ sent.read i).length ≤
    repairableErrors fec t ∧
  (checksum = true → s.fbuf.read (2 + bodyLength fec k t) = crc8 (sent.bytes 0 (bodyLength fec k t)))

/-- The block after a parse that delivers: `RESULT` is 0 and the body is the one sent (43_frame_codec.md R195). -/
def Delivers (u : Block) (sent : Memory) (n : Nat) : Prop :=
  u.result = 0 ∧ ∀ i, i < n → u.dbuf.read i = sent.read i

/-- A validation passes over a body that the checksum was computed of (43_frame_codec.md R194). -/
theorem validateChecksum_delivers {s : Block} {sent : Memory} {checksum : Bool} {n : Nat}
    (hbody : ∀ i, i < n → s.dbuf.read i = sent.read i)
    (hchk : checksum = true → s.fbuf.read (2 + n) = crc8 (sent.bytes 0 n)) :
    (s.validateChecksum checksum n).Delivers sent n := by
  have same : s.dbuf.bytes 0 n = sent.bytes 0 n := Memory.bytes_congr fun i hi => by simpa using hbody i hi
  rw [validateChecksum_eq_update _ checksum rfl, same]
  exact ⟨if_neg fun h => h.2 (hchk h.1).symm, hbody⟩

namespace HoldsBody

variable {s : Block} {sent : Memory} {checksum fec : Bool} {k t : Nat} (h : s.HoldsBody sent checksum fec k t)
include h

/-- Without FEC no byte is damaged. -/
theorem read_of_not_fec (hfec : fec = false) {i : Nat} (hi : i < bodyLength fec k t) :
    s.fbuf.read (2 + i) = sent.read i := by
  obtain ⟨-, -, undamaged, -⟩ := h
  rw [repairableErrors, hfec, if_neg (by simp), Nat.le_zero, List.length_eq_zero_iff,
    List.filter_eq_nil_iff] at undamaged
  simpa using undamaged i (List.mem_range.2 (hfec ▸ hi))

/-- With FEC the damaged bytes copied to `DBUF` are at most `T` (43_frame_codec.md R193). -/
theorem card_damagedLocations_copyBody_le (hfec : fec = true) :
    (damagedLocations sent (s.copyBody (bodyLength fec k t)).dbuf (bodyLength fec k t)).card ≤ t := by
  obtain ⟨-, -, few, -⟩ := h
  rw [repairableErrors, if_pos hfec] at few
  rw [card_damagedLocations]
  refine Eq.trans_le (congrArg List.length (List.filter_congr fun i hi => ?_)) few
  rw [s.copyBody_read_body (List.mem_range.1 hi)]

/-- The body is repaired where it has to be, and delivered (43_frame_codec.md R193 to R195). -/
theorem parseBody_delivers : (s.parseBody checksum fec k t).Delivers sent (bodyLength fec k t) := by
  have ⟨hfits, hcodeword, _, hsum⟩ := h
  cases hfec : fec with
  | false =>
    subst hfec
    rw [parseBody_of_not_fec _ rfl]
    exact validateChecksum_delivers
      (fun i hi => (s.copyBody_read_body hi).trans (h.read_of_not_fec rfl hi)) hsum
  | true =>
    subst hfec
    obtain ⟨hresult, hbody, -⟩ : (s.decodeBody true k t).Restored sent (k + 2 * t) _ :=
      decodeCodeword_restores (hcodeword rfl) hfits (Nat.mul_le_mul_left 2 (h.card_damagedLocations_copyBody_le rfl))
    have accepted : (s.decodeBody true k t).result ≠ 2 := by
      rw [hresult]
      decide
    rw [parseBody_of_fec _ rfl, if_neg accepted]
    exact validateChecksum_delivers hbody (by rw [decodeBody_fbuf]; exact hsum)

end HoldsBody

/-! ## The frame that `FRBUILD` leaves -/

/-- The header in `FBUF` is that of the frame that `s` builds, but for the flag bits no parse goes by, and the receiver has
the same `TBUDGET` (43_frame_codec.md R180, R191). -/
def HasHeaderOf (r s : Block) (k : Nat) : Prop :=
  r.tbudget = s.tbudget ∧ checksumActive (r.fbuf.read 0) = usesChecksum s.cfg ∧
  fecActive (r.fbuf.read 0) = usesFec s.cfg ∧ r.fbuf.read 1 = BitVec.ofNat 8 k

/-- The bytes in `FBUF` after the header are those of the frame that `s` builds, but for as many body bytes as can be
repaired (43_frame_codec.md R199). -/
def HasBodyOf (r s : Block) (k : Nat) : Prop :=
  ((List.range (s.builtBodyLength k)).filter fun i =>
    r.fbuf.read (2 + i) ≠ (s.buildFrame k).fbuf.read (2 + i)).length ≤
      repairableErrors (usesFec s.cfg) s.tbudget.toNat ∧
  (usesChecksum s.cfg = true →
    r.fbuf.read (2 + s.builtBodyLength k) = (s.buildFrame k).fbuf.read (2 + s.builtBodyLength k))

section Received

variable {r s : Block} {k : Nat} (hs : s.Accepts k)
include hs

theorem HasHeaderOf.toNat_length (h : r.HasHeaderOf s k) : (r.fbuf.read 1).toNat = k := by
  obtain ⟨-, -, -, hlength⟩ := h
  rw [hlength, hs.toNat_length]

theorem HasHeaderOf.receivedBodyLength_eq (h : r.HasHeaderOf s k) : r.receivedBodyLength = s.builtBodyLength k := by
  have hk := h.toNat_length hs
  obtain ⟨htb, -, hfec, -⟩ := h
  rw [receivedBodyLength, hk, hfec, htb, builtBodyLength]

/-- With the header as built, a parse of as many bytes as were sent goes on to the body (43_frame_codec.md R192). -/
theorem HasHeaderOf.parseFrame_eq (h : r.HasHeaderOf s k) :
    r.parseFrame (s.buildFrame k).flen.toNat =
      (r.takeHeader (s.buildFrame k).flen.toNat).parseBody (usesChecksum s.cfg) (usesFec s.cfg) k s.tbudget.toNat := by
  have hk := h.toNat_length hs
  have hn := h.receivedBodyLength_eq hs
  obtain ⟨htb, hchk, hfec, -⟩ := h
  have fits : r.LengthFits (s.buildFrame k).flen.toNat := by
    rw [LengthFits, hn, hchk]
    exact ⟨hs.builtBodyLength_le, hs.flen⟩
  rw [r.parseFrame_of_fits fits, hchk, hfec, hk, htb]

/-- The body sent is a codeword when FEC is on, and the last byte is its checksum (43_frame_codec.md R180). -/
theorem HasBodyOf.holdsBody (h : r.HasBodyOf s k) :
    r.HoldsBody (s.buildFrame k).dbuf (usesChecksum s.cfg) (usesFec s.cfg) k s.tbudget.toNat := by
  obtain ⟨herrors, hsum⟩ := h
  refine ⟨hs.builtBodyLength_le, fun hfec j hj => ?_, ?_, fun hchk => (hsum hchk).trans (s.buildFrame_checksum k hchk)⟩
  · rw [buildFrame_eq_update, s.encodedFor_of_fec k hfec]
    exact s.encodePayload_syndrome hj
  · refine Eq.trans_le (congrArg List.length (List.filter_congr fun i hi => ?_)) herrors
    rw [s.buildFrame_body k (List.mem_range.1 hi)]

/-- A frame received with the header as built and a body that can be repaired is parsed to the payload
(43_frame_codec.md R199). -/
theorem parseFrame_delivers_built (hheader : r.HasHeaderOf s k) (hbody : r.HasBodyOf s k) :
    (r.parseFrame (s.buildFrame k).flen.toNat).Delivers s.dbuf k ∧
      (r.parseFrame (s.buildFrame k).flen.toNat).plen.toNat = k ∧
      (r.parseFrame (s.buildFrame k).flen.toNat).rxflags = r.fbuf.read 0 := by
  have taken : (r.takeHeader (s.buildFrame k).flen.toNat).HasBodyOf s k := hbody
  obtain ⟨hresult, hread⟩ := (taken.holdsBody hs).parseBody_delivers
  rw [hheader.parseFrame_eq hs, parseBody_plen, parseBody_rxflags]
  refine ⟨⟨hresult, fun i hi => ?_⟩, hheader.toNat_length hs, rfl⟩
  rw [hread i (Nat.lt_add_right _ hi), buildFrame_eq_update, s.encodedFor_read_payload k hi]

end Received

end Block

end Sys2Proof.Machine
end

section
/-! PROOF. The statements about a frame built, sent and parsed (43_frame_codec.md R199). -/

namespace Sys2Proof.Machine

namespace Block

variable {r s : Block} {k : Nat}

theorem HasHeaderOf.of_same (htb : r.tbudget = s.tbudget) (h0 : r.fbuf.read 0 = (s.buildFrame k).fbuf.read 0)
    (h1 : r.fbuf.read 1 = (s.buildFrame k).fbuf.read 1) : r.HasHeaderOf s k := by
  rw [buildFrame_flags] at h0
  refine ⟨htb, ?_, ?_, h1.trans (s.buildFrame_length k)⟩
  · rw [h0, checksumActive_append]
  · rw [h0, fecActive_append]

theorem HasBodyOf.of_same (h : ∀ i, 2 ≤ i → r.fbuf.read i = (s.buildFrame k).fbuf.read i) : r.HasBodyOf s k := by
  refine ⟨?_, fun _ => h _ (by omega)⟩
  rw [List.filter_eq_nil_iff.2 fun i _ => by simp [h (2 + i) (by omega)]]
  exact Nat.zero_le _

end Block

/-- Settles O50: the frame as built has no damage. -/
theorem frameRoundTrip : Obligations.FrameRoundTrip := by
  unfold Obligations.FrameRoundTrip
  intro k s t u between hk hfec ht hu
  have hs : s.Accepts k := ⟨hk, fun h => (hfec h).2⟩
  obtain rfl := next_unique (exec_frbuild hs) ht
  obtain rfl := next_unique (exec_frparse hs.flen_le _) hu
  obtain ⟨⟨hresult, hpayload⟩, hplen, hrxflags⟩ := Block.parseFrame_delivers_built
    (r := { s.buildFrame k with dbuf := between }) hs (.of_same (s.buildFrame_tbudget k) rfl rfl) (.of_same fun _ _ => rfl)
  exact ⟨hresult, hplen, hrxflags.trans (s.buildFrame_flags k), hpayload⟩

/-- Settles O51: the damage is within what the parity repairs, and the header and the checksum are intact. -/
theorem fecFrameIsRepaired : Obligations.FecFrameIsRepaired := by
  unfold Obligations.FecFrameIsRepaired
  intro k s t u received between hfec h0 hn ht hintact herrors hu
  have hs : s.Accepts k := ⟨by omega, fun _ => hn⟩
  have hlength : s.builtBodyLength k = k + 2 * s.tbudget.toNat := congrArg (k + ·) (if_pos hfec)
  have hbudget : repairableErrors (usesFec s.cfg) s.tbudget.toNat = s.tbudget.toNat := if_pos hfec
  obtain rfl := next_unique (exec_frbuild hs) ht
  obtain rfl := next_unique (exec_frparse hs.flen_le _) hu
  obtain ⟨⟨hresult, hpayload⟩, hplen, -⟩ := Block.parseFrame_delivers_built
    (r := { s.buildFrame k with fbuf := received, dbuf := between }) hs
    (.of_same (s.buildFrame_tbudget k) (hintact 0 (.inl (by omega))) (hintact 1 (.inl (by omega))))
    ⟨by rw [hlength, hbudget]; exact herrors, fun _ => hintact _ (.inr (by rw [hlength]))⟩
  exact ⟨hresult, hplen, hpayload⟩

/-! ## One flipped bit -/

theorem getLsbD_flip (x : Byte) {b j : Nat} (hb : b < 8) :
    (x ^^^ (1#8 <<< b)).getLsbD j = (x.getLsbD j ^^ decide (b = j)) := by
  rw [BitVec.getLsbD_xor]
  have bit := BitVec.getLsbD_twoPow (w := 8) b j
  rw [decide_eq_true hb, Bool.true_and] at bit
  rw [← bit]
  rfl

theorem flip_ne (x : Byte) {b : Nat} (hb : b < 8) : x ^^^ (1#8 <<< b) ≠ x := by
  intro h
  have bit := getLsbD_flip x (j := b) hb
  rw [h, decide_eq_true rfl, Bool.xor_true] at bit
  exact Bool.self_ne_not _ bit

theorem checksumActive_flip (x : Byte) {b : Nat} (hb : b < 8) :
    checksumActive (x ^^^ (1#8 <<< b)) = (checksumActive x ^^ decide (b = 1)) := by
  rw [checksumActive, getLsbD_flip x hb, ← Bool.not_xor, checksumActive]

theorem fecActive_flip (x : Byte) {b : Nat} (hb : b < 8) :
    fecActive (x ^^^ (1#8 <<< b)) = (fecActive x ^^ decide (b = 2)) := by
  rw [fecActive, getLsbD_flip x hb, ← Bool.not_xor, fecActive]

/-- The length of a frame with the checksum and without FEC (43_frame_codec.md R180). -/
theorem frameLength_checked (k t : Nat) : frameLength true (bodyLength false k t) = k + 3 := by
  simp only [frameLength, bodyLength, Bool.false_eq_true, if_false, if_true]
  omega

namespace Block

/-- The receiver of the frame that `s` builds, with bit `b` of its byte `i` flipped. -/
def receiveFlipped (s : Block) (k i b : Nat) (between : Memory) : Block :=
  { s.buildFrame k with
    fbuf := (s.buildFrame k).fbuf.write i ((s.buildFrame k).fbuf.read i ^^^ (1#8 <<< b)), dbuf := between }

theorem receiveFlipped_read_same (s : Block) (k i b : Nat) (between : Memory) :
    (s.receiveFlipped k i b between).fbuf.read i = (s.buildFrame k).fbuf.read i ^^^ (1#8 <<< b) :=
  Memory.read_write_same _ _ _

theorem receiveFlipped_read_other (s : Block) (k : Nat) {i j : Nat} (b : Nat) (between : Memory) (h : j ≠ i) :
    (s.receiveFlipped k i b between).fbuf.read j = (s.buildFrame k).fbuf.read j :=
  Memory.read_write_other _ _ h.symm

theorem receiveFlipped_tbudget (s : Block) (k i b : Nat) (between : Memory) :
    (s.receiveFlipped k i b between).tbudget = s.tbudget :=
  s.buildFrame_tbudget k

section Flipped

variable {s : Block} {k : Nat} (hs : s.Accepts k) {i b : Nat} (hb : b < 8) (between : Memory)
include hs hb

/-- A flag bit that no parse goes by is not noticed (43_frame_codec.md R199 item 3). -/
theorem parseFrame_flipped_unused_flag (h1 : b ≠ 1) (h2 : b ≠ 2) :
    ((s.receiveFlipped k 0 b between).parseFrame (s.buildFrame k).flen.toNat).Delivers s.dbuf k := by
  have header : (s.receiveFlipped k 0 b between).HasHeaderOf s k := by
    refine ⟨s.receiveFlipped_tbudget k 0 b between, ?_, ?_, ?_⟩
    · rw [receiveFlipped_read_same, checksumActive_flip _ hb, buildFrame_flags, checksumActive_append,
        decide_eq_false h1, Bool.xor_false]
    · rw [receiveFlipped_read_same, fecActive_flip _ hb, buildFrame_flags, fecActive_append, decide_eq_false h2,
        Bool.xor_false]
    · rw [receiveFlipped_read_other _ _ _ _ Nat.one_ne_zero, buildFrame_length]
  have body : (s.receiveFlipped k 0 b between).HasBodyOf s k :=
    .of_same fun j hj => s.receiveFlipped_read_other k b between (by omega)
  exact (parseFrame_delivers_built hs header body).1

variable (hchk : usesChecksum s.cfg = true) (hfec : usesFec s.cfg = false)
include hchk hfec

omit hb in
theorem Accepts.flen_of_checked : (s.buildFrame k).flen.toNat = k + 3 := by
  rw [hs.flen, builtBodyLength, hchk, hfec, frameLength_checked]

/-- A flag bit that says another length, or another length byte, asks for another number of bytes than were sent. -/
theorem not_lengthFits_flipped_header (h0 : s.tbudget.toNat ≠ 0) (hi : i = 0 ∧ (b = 1 ∨ b = 2) ∨ i = 1) :
    ¬ (s.receiveFlipped k i b between).LengthFits (s.buildFrame k).flen.toNat := by
  rintro ⟨-, hlen⟩
  rw [hs.flen_of_checked hchk hfec, receivedBodyLength, receiveFlipped_tbudget] at hlen
  have length : ((s.buildFrame k).fbuf.read 1).toNat = k := by
    rw [buildFrame_length, hs.toNat_length]
  have checksum : checksumActive ((s.buildFrame k).fbuf.read 0) = true := by
    rw [buildFrame_flags, checksumActive_append, hchk]
  have fec : fecActive ((s.buildFrame k).fbuf.read 0) = false := by
    rw [buildFrame_flags, fecActive_append, hfec]
  rcases hi with ⟨rfl, hflag⟩ | rfl
  · rw [receiveFlipped_read_same, receiveFlipped_read_other _ _ _ _ Nat.one_ne_zero, checksumActive_flip _ hb,
      fecActive_flip _ hb, length, checksum, fec] at hlen
    rcases hflag with rfl | rfl <;> simp [frameLength, bodyLength] at hlen <;> omega
  · rw [receiveFlipped_read_same, receiveFlipped_read_other _ _ _ _ Nat.zero_ne_one, checksum, fec,
      frameLength_checked] at hlen
    exact flip_ne _ hb (BitVec.eq_of_toNat_eq ((Nat.add_right_cancel hlen).symm.trans length.symm))

/-- Such a bit is noticed by the length test (43_frame_codec.md R199 item 3). -/
theorem parseFrame_flipped_header (h0 : s.tbudget.toNat ≠ 0) (hi : i = 0 ∧ (b = 1 ∨ b = 2) ∨ i = 1) :
    ((s.receiveFlipped k i b between).parseFrame (s.buildFrame k).flen.toNat).result = 3 := by
  rw [parseFrame_of_not_fits _ (by rw [hs.flen_of_checked hchk hfec]; omega)
    (not_lengthFits_flipped_header hs hb between hchk hfec h0 hi)]
  rfl

omit hb in
/-- A body that does not have the checksum received is rejected (43_frame_codec.md R194). -/
theorem HasHeaderOf.parseFrame_result_of_checksum_ne {r : Block} (h : r.HasHeaderOf s k)
    (hne : crc8 (r.fbuf.bytes 2 k) ≠ r.fbuf.read (2 + k)) :
    (r.parseFrame (s.buildFrame k).flen.toNat).result = 1 := by
  have copied : ((r.takeHeader (s.buildFrame k).flen.toNat).copyBody k).dbuf.bytes 0 k = r.fbuf.bytes 2 k :=
    Memory.bytes_congr fun i hi => by rw [Nat.zero_add]; exact copyBody_read_body _ hi
  rw [h.parseFrame_eq hs, hchk, hfec, parseBody_of_not_fec _ rfl, validateChecksum_eq_update _ _ rfl]
  refine if_pos ⟨rfl, ?_⟩
  rw [show bodyLength false k s.tbudget.toNat = k from rfl, copied]
  exact hne

omit hs hb in
/-- Without FEC the checksum sent is that of the payload as it stands in the frame. -/
theorem buildFrame_checksum_of_payload :
    crc8 ((s.buildFrame k).fbuf.bytes 2 k) = (s.buildFrame k).fbuf.read (2 + k) := by
  have length : s.builtBodyLength k = k := by rw [builtBodyLength, hfec]; rfl
  have body : (s.buildFrame k).fbuf.bytes 2 k = (s.buildFrame k).dbuf.bytes 0 k :=
    Memory.bytes_congr fun j hj => by rw [s.buildFrame_body k (length.symm ▸ hj), Nat.zero_add]
  have checksum := s.buildFrame_checksum k hchk
  rw [length] at checksum
  rw [body, checksum]

/-- A flipped bit of the payload or the checksum is noticed by the checksum (43_frame_codec.md R199 item 3). -/
theorem parseFrame_flipped_checked (h2 : 2 ≤ i) (hi : i < k + 3) :
    ((s.receiveFlipped k i b between).parseFrame (s.buildFrame k).flen.toNat).result = 1 := by
  have same {j : Nat} (hj : j ≠ i) := s.receiveFlipped_read_other k b between hj
  have changed : (s.receiveFlipped k i b between).fbuf.read i ≠ (s.buildFrame k).fbuf.read i := by
    rw [receiveFlipped_read_same]
    exact flip_ne _ hb
  have header : (s.receiveFlipped k i b between).HasHeaderOf s k :=
    .of_same (s.receiveFlipped_tbudget k i b between) (same (by omega)) (same (by omega))
  have sent := s.buildFrame_checksum_of_payload (k := k) hchk hfec
  refine header.parseFrame_result_of_checksum_ne hs hchk hfec ?_
  obtain ⟨j, rfl⟩ : ∃ j, i = 2 + j := ⟨i - 2, by omega⟩
  rcases Nat.lt_or_ge j k with hj | hj
  · rw [same (by omega), ← sent]
    exact crc8_ne_of_one_byte hj changed fun _ => same
  · obtain rfl : j = k := by omega
    rw [Memory.bytes_congr fun a ha => same (j := 2 + a) (by omega), sent]
    exact changed.symm

end Flipped

end Block

/-- Settles O52: the length test or the checksum notices the bit, or the parse does not go by it. -/
theorem singleBitDamage : Obligations.SingleBitDamage := by
  unfold Obligations.SingleBitDamage
  intro k i b s t u between hk hchk hfec h0 ht hi hb hu
  have hs : s.Accepts k := ⟨hk, fun h => absurd (hfec.symm.trans h) Bool.false_ne_true⟩
  obtain rfl := next_unique (exec_frbuild hs) ht
  obtain rfl := next_unique (exec_frparse hs.flen_le _) hu
  by_cases hheader : i = 0 ∧ (b = 1 ∨ b = 2) ∨ i = 1
  · have rejected := Block.parseFrame_flipped_header hs hb between hchk hfec h0 hheader
    refine ⟨rejected.trans ?_, fun h => absurd (rejected.symm.trans h) (by decide)⟩
    rcases hheader with ⟨rfl, hflag⟩ | rfl
    · rw [if_pos rfl, if_pos hflag]
    · rfl
  · rcases Nat.eq_zero_or_pos i with rfl | hpos
    · have hunused : ¬ (b = 1 ∨ b = 2) := fun hflag => hheader (.inl ⟨rfl, hflag⟩)
      obtain ⟨h1, h2⟩ := not_or.1 hunused
      obtain ⟨hresult, hpayload⟩ := Block.parseFrame_flipped_unused_flag hs hb between h1 h2
      rw [if_pos rfl, if_neg hunused]
      exact ⟨hresult, fun _ => hpayload⟩
    · have rejected := Block.parseFrame_flipped_checked hs hb between hchk hfec (by omega) hi
      rw [if_neg (by omega), if_neg (by omega)]
      exact ⟨rejected, fun h => absurd (rejected.symm.trans h) (by decide)⟩

end Sys2Proof.Machine
end

section
/-! PROOF. The tone selector: the symbol of one byte, and the line sequence of a frame piece by piece. -/

namespace Sys2Proof.Machine

/-- The frequency index as a number modulo 8 (44_tone_selector.md R210). -/
theorem toneIndex_eq_ofNat (b : Byte) : toneIndex b = BitVec.ofNat 8 (b.toNat % 8) := by
  rw [← toNat_toneIndex, BitVec.ofNat_toNat, BitVec.setWidth_eq]

/-! ## The pieces of the line sequence (44_tone_selector.md R211) -/

namespace Block

variable {s : Block} {idx : Nat}

theorem lineSymbol_of_hail (h : idx < s.khail.toNat) : s.lineSymbol idx = s.setLine .hail 0 := if_pos h

theorem lineSymbol_of_data (hlo : s.khail.toNat ≤ idx) (hhi : idx < s.khail.toNat + s.flen.toNat) :
    s.lineSymbol idx = s.setLine .data (toneIndex (s.fbuf.read (idx - s.khail.toNat))) :=
  (if_neg (by omega)).trans (if_pos hhi)

theorem lineSymbol_of_end (h : s.khail.toNat + s.flen.toNat ≤ idx) : s.lineSymbol idx = s.setLine .endMark 0 :=
  (if_neg (by omega)).trans (if_neg (by omega))

end Block

/-! ## The two commands -/

section Lsym

variable {s : State} {idx : Nat}

theorem exec_lsym (h : idx ≤ s.khail.toNat + s.flen.toNat) :
    exec (.lsym idx) s = .next (s.onBlock (·.lineSymbol idx)) :=
  if_pos ((symbolInRange_iff idx _ _).2 h)

theorem exec_lsym_past_end (h : s.khail.toNat + s.flen.toNat < idx) :
    exec (.lsym idx) s = .next (s.onBlock (·.raise .operandRange)) :=
  if_neg fun hin => Nat.not_le_of_lt h ((symbolInRange_iff idx _ _).1 hin)

end Lsym

/-- Settles O53: the low three bits of the byte are its remainder modulo 8. -/
theorem toneIsTheByteModEight : Obligations.ToneIsTheByteModEight := by
  unfold Obligations.ToneIsTheByteModEight
  intro b s
  rw [← toneIndex_eq_ofNat]
  rfl

/-- Settles O54: the three pieces of the sequence lie within the range check, and past the end marker it refuses. -/
theorem lineSequence : Obligations.LineSequence := by
  unfold Obligations.LineSequence
  intro idx s
  refine ⟨fun hhail => ?hail, fun hlo hhi => ?data, fun hend => ?endMark, exec_lsym_past_end⟩
  case hail =>
    rw [exec_lsym (by omega), State.onBlock, Block.lineSymbol_of_hail hhail]
    rfl
  case data =>
    rw [exec_lsym (by omega), State.onBlock, Block.lineSymbol_of_data hlo hhi, toneIndex_eq_ofNat]
    rfl
  case endMark =>
    rw [exec_lsym (by omega), State.onBlock, Block.lineSymbol_of_end (by omega)]
    rfl

end Sys2Proof.Machine
end

section
/-! PROOF. The host's moves (45_host_access.md R223, R225): what one move does to the block, a step as that effect of the
next move on the port, and a run as its fold. -/

namespace Sys2Proof.Machine

/-! ## A move of the host as an effect on the block -/

/-- What a command word makes of the block (60_exceptions.md R233, R234). -/
def Block.wordEffect (w : Word) (b : Block) : Block :=
  if b.stopped then b
  else
    match decode w with
    | .error _ => b.raise .illegalCommand
    | .ok i => Block.effect i b

/-- What a move of the host makes of the block (45_host_access.md R225). -/
def Block.moveEffect (b : Block) : HostEvent → Block
  | .command w => b.wordEffect w
  | .reset => b.applyReset

theorem execWord_eq_wordEffect (w : Word) (s : State) : execWord w s = .next (s.onBlock (Block.wordEffect w)) := by
  unfold execWord State.onBlock Block.wordEffect
  cases hs : s.stopped with
  | true => rfl
  | false =>
    cases hd : decode w with
    | error e => rfl
    | ok i => exact exec_eq_effect i s

theorem execWord_of_decode {s : State} {w : Word} {i : Instr} (hs : s.fault = 0) (hd : decode w = .ok i) :
    execWord w s = exec i s := by
  rcases execWord_cases w s with ⟨hne, -⟩ | ⟨-, ⟨e, he⟩, -⟩ | ⟨-, j, hj, heq⟩
  · exact absurd hs hne
  · simp [hd] at he
  · rw [hd, Except.ok.injEq] at hj
    rw [heq, hj]

theorem applyEvent_eq_moveEffect (e : HostEvent) (s : State) :
    applyEvent e s = .next (s.onBlock (·.moveEffect e)) := by
  cases e with
  | command w => exact execWord_eq_wordEffect w s
  | reset => rfl

/-! ## A step takes the next move -/

theorem step_of_port_nil {s : State} (h : s.port = []) : step s = .next s := by
  rw [step, stepPort, h]

theorem step_of_port_cons {s : State} {e : HostEvent} {rest : List HostEvent} (h : s.port = e :: rest) :
    step s = applyEvent e (s.setPort rest) := by
  rw [step, stepPort, h]

/-- A whole word presented is the next move. -/
theorem withFetchWord_word (s : State) (w : Word) : s.withFetchWord 32 w.toNat = s.setPort (.command w :: s.port) := by
  rw [State.withFetchWord, Nat.mod_eq_of_lt w.isLt, BitVec.ofNat_toNat, BitVec.setWidth_eq, State.present]

/-- Settles O7: the word at the head of the port is the move that the step takes. -/
theorem stepRunsTheDecodedCommand : Obligations.StepRunsTheDecodedCommand := by
  unfold Obligations.StepRunsTheDecodedCommand
  refine ⟨fun s w rest i hp hs hd => ?onPort, fun s w i hs hd => ?presented, fun s e rest => step_of_port_cons,
    fun s => step_of_port_nil⟩
  case onPort =>
    rw [step_of_port_cons hp]
    exact execWord_of_decode (s := s.setPort rest) hs hd
  case presented =>
    rw [withFetchWord_word, step_of_port_cons (s.setPort_port _)]
    exact execWord_of_decode hs hd

/-! ## A run is a fold over the moves -/

theorem run_command {b c : Block} {w : Word} {es : List HostEvent} {rs : List Response}
    (h : run (b.wordEffect w) es = .next (c, rs)) :
    run b (.command w :: es) = .next (c, (b.wordEffect w).response :: rs) := by
  rw [run, execWord_eq_wordEffect]
  simp only [State.onBlock_toBlock, State.alone_toBlock, h]

/-- The responses of a run: one after each command word, none after a reset. -/
def Block.responses (b : Block) : List HostEvent → List Response
  | [] => []
  | .reset :: es => b.applyReset.responses es
  | .command w :: es => (b.wordEffect w).response :: (b.wordEffect w).responses es

theorem run_eq_foldl (b : Block) (es : List HostEvent) :
    run b es = .next (es.foldl Block.moveEffect b, b.responses es) := by
  induction es generalizing b with
  | nil => rfl
  | cons e es ih => cases e with
    | command w => exact run_command (ih _)
    | reset => exact ih _

theorem length_responses (b : Block) (es : List HostEvent) :
    (b.responses es).length = (es.filter (· ≠ HostEvent.reset)).length := by
  induction es generalizing b with
  | nil => rfl
  | cons e es ih => cases e with
    | command w => simp [Block.responses, ih]
    | reset => simp [Block.responses, ih]

theorem core_run_succ {s t : State} (h : step s = .next t) (n : Nat) :
    Host.Core.run Sys2Proof.core (n + 1) s = Host.Core.run Sys2Proof.core n t := by
  have hcore : Sys2Proof.core.step s = .next t := h
  simp only [Host.Core.run, hcore]

/-- Steps with the moves on the port fold over the block the effects of as many moves. -/
theorem core_run_eq_foldl (b : Block) (es : List HostEvent) :
    Host.Core.run Sys2Proof.core es.length ({ toBlock := b, port := es } : State) =
      .next ({ toBlock := es.foldl Block.moveEffect b, port := [] } : State) := by
  induction es generalizing b with
  | nil => rfl
  | cons e es ih =>
    have hstep : step { toBlock := b, port := e :: es } = .next { toBlock := b.moveEffect e, port := es } :=
      (step_of_port_cons rfl).trans (applyEvent_eq_moveEffect e _)
    exact (core_run_succ hstep es.length).trans (ih (b.moveEffect e))

/-- Settles O19: the run and the steps are the same fold, with one response a command word. -/
theorem runAgreesWithSteps : Obligations.RunAgreesWithSteps := by
  unfold Obligations.RunAgreesWithSteps
  intro es b
  exact ⟨_, _, run_eq_foldl b es, core_run_eq_foldl b es, length_responses b es⟩

end Sys2Proof.Machine
end

section
/-! PROOF. What `WRB` writes and refuses, and what `RDB` reads back or finds after reset (45_host_access.md R220 to R222). -/

namespace Sys2Proof.Machine

/-! ## The addresses of single places -/

/-- To be at a place is to be at its address. -/
theorem eq_iff_of_placeAt {a b : Nat} {p q : Place} (hp : placeAt a = some p) (hq : placeAt b = some q) :
    p = q ↔ a = b := by
  constructor
  · rintro rfl
    exact placeAt_injective hp hq
  · rintro rfl
    exact Option.some.inj (hp.symm.trans hq)

/-- A read-only address is mapped, and to none of the writable places `DBUF`, `FBUF` and `CFG` (45_host_access.md R220). -/
theorem exists_readOnly_placeAt {addr : Nat} (h : ReadOnlyAddress addr) :
    ∃ p, placeAt addr = some p ∧ p.writable = false := by
  obtain ⟨p, hp⟩ := exists_placeAt_of_mapped (addr := addr) (by omega)
  refine ⟨p, hp, ?_⟩
  have haddr := address_of_placeAt hp
  cases p with
  | dbuf i =>
    have := lt_of_placeAt_dbuf hp
    simp only [Place.address] at haddr
    omega
  | fbuf i =>
    have := lt_of_placeAt_fbuf hp
    simp only [Place.address] at haddr
    omega
  | register r => cases r with
    | cfg =>
      have hcfg : 0xF08 = addr := haddr
      omega
    | _ => rfl
  | _ => rfl

/-! ## `WRB` refused -/

theorem exec_wrb_unmapped {addr : Nat} (h : UnmappedAddress addr) (data : Byte) (s : State) :
    exec (.wrb addr data) s = .next (s.onBlock (·.raise .addressRange)) := by
  simp only [exec, execWrb, (placeAt_eq_none_iff addr).2 h]

theorem exec_wrb_readOnly {addr : Nat} (h : ReadOnlyAddress addr) (data : Byte) (s : State) :
    exec (.wrb addr data) s = .next (s.onBlock (·.raise .writeToReadOnly)) := by
  obtain ⟨p, hp, hro⟩ := exists_readOnly_placeAt h
  simp only [exec, execWrb, hp, hro, Bool.false_eq_true, if_false]

/-- Settles O27: an unmapped address has no place, and the place of a read-only one is not writable. -/
theorem wrbRefusesTheRest : Obligations.WrbRefusesTheRest := by
  unfold Obligations.WrbRefusesTheRest
  exact fun s addr data => ⟨fun h => exec_wrb_unmapped h data s, fun h => exec_wrb_readOnly h data s⟩

/-! ## `WRB` accepted -/

/-- Settles O26: a store to one place of `DBUF` or `FBUF` is one write of that array, and a store to `CFG` keeps the low
three bits. -/
theorem wrbWritesOneByte : Obligations.WrbWritesOneByte := by
  unfold Obligations.WrbWritesOneByte
  refine ⟨fun s addr data h => ?dbuf, fun s j data h => ?fbuf, fun s data => ?cfg⟩
  case dbuf =>
    exact ⟨_, exec_wrb (placeAt_dbuf h) rfl data s, rfl, Memory.read_write_same _ _ _,
      fun i hi => Memory.read_write_other _ _ hi.symm⟩
  case fbuf =>
    have hp := placeAt_fbuf (addr := 0x100 + j) (by omega) (by omega)
    rw [Nat.add_sub_cancel_left] at hp
    exact ⟨_, exec_wrb hp rfl data s, rfl, Memory.read_write_same _ _ _,
      fun i hi => Memory.read_write_other _ _ hi.symm⟩
  case cfg =>
    rw [← BitVec.setWidth_eq_extractLsb' (by decide)]
    exact exec_wrb (p := .register .cfg) rfl rfl data s

/-! ## Reading back -/

/-- `CFG` holds three bits of the byte stored to it (45_host_access.md R222). -/
theorem zeroExtend_setWidth_three (v : Byte) : (v.setWidth 3).zeroExtend 8 = v &&& 0x07 := by
  apply BitVec.eq_of_toNat_eq
  simp [Nat.and_two_pow_sub_one_eq_mod v.toNat 3]
  omega

/-- A load of a writable place gives the byte stored to it, or what `CFG` keeps of it. -/
theorem Block.load_store_same (s : Block) {p : Place} (hw : p.writable = true) (v : Byte) :
    (s.store p v).load p = if p = .register .cfg then v &&& 0x07 else v := by
  cases p with
  | dbuf i => exact Memory.read_write_same _ _ _
  | fbuf i => exact Memory.read_write_same _ _ _
  | register r => cases r with
    | cfg => exact zeroExtend_setWidth_three v
    | _ => exact absurd hw Bool.false_ne_true
  | _ => exact absurd hw Bool.false_ne_true

/-- Settles O29: the load is from the place of the store, which is `CFG` at `0xF08` alone. -/
theorem writeThenReadBack : Obligations.WriteThenReadBack := by
  unfold Obligations.WriteThenReadBack
  intro s t addr data hmap hrw ht
  obtain ⟨p, hp, hw⟩ := exists_writable_placeAt hmap hrw
  have hcfg : p = .register .cfg ↔ addr = 0xF08 := eq_iff_of_placeAt hp rfl
  rw [exec_wrb hp hw, Host.Outcome.next.injEq] at ht
  subst ht
  rw [exec_rdb hp, State.onBlock_toBlock, s.load_store_same hw]
  simp only [hcfg]
  rfl

/-! ## Reading after reset -/

/-- Every place reads 0 after reset but `RXFLAGS` and the two constant registers (70_reset_and_hazards.md R261). -/
theorem Block.load_reset (p : Place) :
    Block.reset.load p = if p = .register .rxflags then 0xFF else if p = .register .tbudget then BitVec.ofNat 8 Config.tErr
      else if p = .register .khail then BitVec.ofNat 8 Config.kHail else 0 := by
  cases p with
  | register r => cases r <;> rfl
  | _ => rfl

/-- Settles O16: the three places that do not read 0 after reset are those of `0xF09` to `0xF0B`. -/
theorem readsAfterReset : Obligations.ReadsAfterReset := by
  unfold Obligations.ReadsAfterReset
  intro addr hmap
  obtain ⟨p, hp⟩ := exists_placeAt_of_mapped hmap
  have hrxflags : p = .register .rxflags ↔ addr = 0xF09 := eq_iff_of_placeAt hp rfl
  have htbudget : p = .register .tbudget ↔ addr = 0xF0A := eq_iff_of_placeAt hp rfl
  have hkhail : p = .register .khail ↔ addr = 0xF0B := eq_iff_of_placeAt hp rfl
  rw [exec_rdb hp]
  simp only [State.reset, Block.load_reset, hrxflags, htbudget, hkhail]
  rfl

end Sys2Proof.Machine
end

section
/-! PROOF. Faults (60_exceptions.md R230 to R237): every step completes, a fault writes `FAULT` alone, a stopped block
waits for reset, and the table of what each command raises. -/

namespace Sys2Proof.Machine

/-! ## A next state always -/

/-- Settles O8: a command is an effect on the block, and a step is the effect of the next move, if there is one. -/
theorem everyStepCompletes : Obligations.EveryStepCompletes := by
  unfold Obligations.EveryStepCompletes
  refine ⟨fun i s => ⟨_, exec_eq_effect i s, s.onBlock_port _⟩, fun s => ?_⟩
  cases hp : s.port with
  | nil => exact ⟨s, step_of_port_nil hp, hp⟩
  | cons e rest => exact ⟨_, (step_of_port_cons hp).trans (applyEvent_eq_moveEffect e _), rfl⟩

/-! ## The response to one command word -/

/-- A run of one command word ends in the block the word leads to, with the response read from it
(45_host_access.md R223). -/
theorem run_word {s t : State} {w : Word} (h : execWord w s = .next t) :
    run s.toBlock [.command w] = .next (t.toBlock, [t.response]) := by
  obtain rfl := next_unique (execWord_eq_wordEffect w s) h
  exact run_eq_foldl s.toBlock [.command w]

/-! ## The stopped block -/

/-- Settles O9: a stopped block keeps its state, so that the response shows the old `FAULT` and `RES`. -/
theorem faultedBlockIgnoresCommands : Obligations.FaultedBlockIgnoresCommands := by
  unfold Obligations.FaultedBlockIgnoresCommands
  intro s w hs
  have same := execWord_of_fault_ne_zero hs w
  exact ⟨same, run_word same⟩

/-- Settles O10: of the three kinds of step, the idle one and the one that takes a command word keep `FAULT`. -/
theorem onlyResetClearsFault : Obligations.OnlyResetClearsFault := by
  unfold Obligations.OnlyResetClearsFault
  intro s t ht hs hchange
  rcases step_cases s with ⟨-, idle⟩ | ⟨rest, hp, reset⟩ | ⟨w, rest, -, word⟩
  · obtain rfl := next_unique idle ht
    exact absurd rfl hchange
  · exact ⟨rest, hp, next_unique ht reset⟩
  · rw [execWord_of_fault_ne_zero (s := s.setPort rest) hs] at word
    obtain rfl := next_unique word ht
    exact absurd rfl hchange

/-! ## Fault entry -/

theorem FaultCode.bits_le (f : FaultCode) : f.bits.toNat ≤ 5 := by cases f <;> decide

/-- A command that changes `FAULT` raises a fault and does nothing else. -/
theorem eq_raise_of_exec {i : Instr} {s t : State} (ht : exec i s = .next t) (hchange : t.fault ≠ s.fault) :
    ∃ f, t = s.onBlock (·.raise f) := by
  rcases exec_cases i s with ⟨f, raised⟩ | ⟨u, hu, kept, -⟩
  · exact ⟨f, next_unique ht raised⟩
  · obtain rfl := next_unique hu ht
    exact absurd kept hchange

/-- A command word that changes `FAULT` raises a fault and does nothing else (60_exceptions.md R232). -/
theorem eq_raise_of_execWord {w : Word} {s t : State} (ht : execWord w s = .next t) (hchange : t.fault ≠ s.fault) :
    ∃ f, t = s.onBlock (·.raise f) := by
  rcases execWord_cases w s with ⟨-, ignored⟩ | ⟨-, -, illegal⟩ | ⟨-, i, -, executed⟩
  · obtain rfl := next_unique ignored ht
    exact absurd rfl hchange
  · exact ⟨_, next_unique ht illegal⟩
  · exact eq_raise_of_exec (executed.symm.trans ht) hchange

/-- Settles O11: the word raises one of the five faults, which leaves `RES` to the response as it was. -/
theorem faultEntryWritesOnlyFault : Obligations.FaultEntryWritesOnlyFault := by
  unfold Obligations.FaultEntryWritesOnlyFault
  intro s t w hs ht hraised
  have response := run_word ht
  obtain ⟨f, rfl⟩ := eq_raise_of_execWord ht (hs ▸ hraised)
  exact ⟨rfl, f.bits_le, response⟩

/-! ## The fault table (60_exceptions.md R231) -/

namespace Block

variable {s : Block} (hs : s.fault = 0)
include hs

/-- An effect under a test faults exactly where the test fails, when the effect itself leaves `FAULT` alone. -/
theorem ite_raise_fault {test : Bool} {bad : Prop} [Decidable bad] (htest : test = true ↔ ¬ bad) {b : Block}
    (hb : b.fault = s.fault) (f : FaultCode) :
    (if test then b else s.raise f).fault = if bad then f.bits else 0 := by
  by_cases h : bad
  · rw [if_pos h, if_neg fun ht => htest.1 ht h, raise_fault]
  · rw [if_neg h, if_pos (htest.2 h), hb, hs]

theorem effect_gfinv_fault (a : Byte) :
    (Block.effect (.gfinv a) s).fault = if a = 0 then FaultCode.inverseOfZero.bits else 0 := by
  by_cases ha : a = 0
  · simp only [Block.effect, (ginv_eq_none_iff a).2 ha, raise_fault, if_pos ha]
  · obtain ⟨r, hr⟩ := Option.ne_none_iff_exists'.1 (mt (ginv_eq_none_iff a).1 ha)
    simp only [Block.effect, hr, setRes_fault, hs, if_neg ha]

/-- The three kinds of address (45_host_access.md R220). -/
theorem effect_wrb_fault (addr : Nat) (data : Byte) :
    (Block.effect (.wrb addr data) s).fault =
      if UnmappedAddress addr then FaultCode.addressRange.bits
      else if ReadOnlyAddress addr then FaultCode.writeToReadOnly.bits else 0 := by
  by_cases hu : UnmappedAddress addr
  · simp only [Block.effect, (placeAt_eq_none_iff addr).2 hu, raise_fault, if_pos hu]
  rw [if_neg hu]
  by_cases hr : ReadOnlyAddress addr
  · obtain ⟨p, hp, hro⟩ := exists_readOnly_placeAt hr
    simp only [Block.effect, hp, hro, Bool.false_eq_true, if_false, raise_fault, if_pos hr]
  · obtain ⟨p, hp, hw⟩ := exists_writable_placeAt hu hr
    simp only [Block.effect, hp, hw, if_true, store_fault, hs, if_neg hr]

theorem effect_rdb_fault (addr : Nat) :
    (Block.effect (.rdb addr) s).fault = if UnmappedAddress addr then FaultCode.addressRange.bits else 0 := by
  by_cases hu : UnmappedAddress addr
  · simp only [Block.effect, (placeAt_eq_none_iff addr).2 hu, raise_fault, if_pos hu]
  · obtain ⟨p, hp⟩ := exists_placeAt_of_mapped hu
    simp only [Block.effect, hp, setRes_fault, hs, if_neg hu]

end Block

theorem codewordInRange_iff_not (k npar : Nat) : codewordInRange k npar = true ↔ ¬ (npar = 0 ∨ 255 < k + npar) := by
  rw [codewordInRange_iff]
  omega

/-- The payload length of a command word is a byte, so that `FRBUILD` refuses only a codeword too long. -/
theorem buildInRange_iff_not {k : Nat} (hk : k ≤ 255) (cfg : BitVec 3) (t : Nat) :
    buildInRange (usesFec cfg) k t = true ↔ ¬ (cfg.getLsbD 2 = true ∧ 255 < k + 2 * t) := by
  rw [buildInRange_iff, not_and, Nat.not_lt]
  exact and_iff_right hk

theorem parseInRange_iff_not (len : Nat) : parseInRange len = true ↔ ¬ 258 < len := by
  rw [parseInRange_iff, Nat.not_lt]

theorem symbolInRange_iff_not (idx hails flen : Nat) : symbolInRange idx hails flen = true ↔ ¬ hails + flen < idx := by
  rw [symbolInRange_iff, Nat.not_lt]

/-- Settles O12: each command's tests are the conditions of its row, and no effect past them writes `FAULT`. -/
theorem faultTable : Obligations.FaultTable := by
  unfold Obligations.FaultTable
  intro i s hwf hs
  refine ⟨_, exec_eq_effect i s, ?_⟩
  cases i with
  | gfmul a b => exact hs
  | gfinv a => exact Block.effect_gfinv_fault hs a
  | wrb addr data => exact Block.effect_wrb_fault hs addr data
  | rdb addr => exact Block.effect_rdb_fault hs addr
  | rsenc k npar =>
    exact Block.ite_raise_fault hs (codewordInRange_iff_not k npar) (b := (s.encodePayload k npar).setResult .ok)
      (s.encodePayload_fault k npar) _
  | rssyn k npar => exact Block.ite_raise_fault hs (codewordInRange_iff_not k npar) (s.computeSyndromes_fault k npar) _
  | rsdec k npar => exact Block.ite_raise_fault hs (codewordInRange_iff_not k npar) (s.decodeCodeword_fault k npar) _
  | frbuild k =>
    have hk : k ≤ 255 := of_decide_eq_true hwf
    exact Block.ite_raise_fault hs (buildInRange_iff_not hk s.cfg _) (s.buildFrame_fault k) _
  | frparse len => exact Block.ite_raise_fault hs (parseInRange_iff_not len) (s.parseFrame_fault len) _
  | tone b => exact hs
  | lsym idx => exact Block.ite_raise_fault hs (symbolInRange_iff_not idx _ _) (s.lineSymbol_fault idx) _

end Sys2Proof.Machine
end

section
/-! PROOF. Reset (70_reset_and_hazards.md R260, R261): the values of the reset state, and the move of the host that
leads to it. -/

namespace Sys2Proof.Machine

/-! ## The open parameters -/

theorem tErr_bounds : 1 ≤ Config.tErr ∧ Config.tErr ≤ 127 :=
  ⟨Nat.le_add_left 1 _, Config.errorBudgetPick.isLt⟩

theorem kHail_bounds : 1 ≤ Config.kHail ∧ Config.kHail ≤ 255 :=
  ⟨Nat.le_add_left 1 _, Config.hailPick.isLt⟩

/-- Each constant register is wide enough for its parameter (10_state.md R36, R38). -/
theorem toNat_constant_register {n : Nat} (h : n ≤ 255) : (BitVec.ofNat 8 n).toNat = n :=
  toNat_ofNat_byte (decide_eq_true h)

/-! ## The all-zero word -/

/-- In the sum of 42_rs_decoder.md R141 every term of an all-zero word is zero. -/
theorem syndrome_of_zeros {m : Memory} {n : Nat} (h : ∀ i, i < n → m.read i = 0) (j : Nat) :
    syndrome (m.bytes 0 n) j = 0 := by
  have terms : ∀ i, i < n → gmul (m.read i) (apow ((j + 1) * (n - 1 - i))) = 0#8 := fun i hi => by
    rw [h i hi]
    exact gmul_zero_left _
  rw [syndrome_bytes, xorSum_congr terms]
  exact xorSum_zeros n

/-- `RSSYN` finds an all-zero `DBUF` clean, and out of its range it leaves `SYNNZ` alone. -/
theorem exec_rssyn_of_zeros {k npar : Nat} {s t : State} (hdbuf : ∀ i, s.dbuf.read i = 0) (hsynnz : s.synnz = 0)
    (ht : exec (.rssyn k npar) s = .next t) : t.synnz = 0 := by
  by_cases hr : npar = 0 ∨ 255 < k + npar
  · obtain ⟨-, raised, -⟩ := codewordOutOfRangeFaults k npar s hr
    obtain rfl := next_unique raised ht
    exact hsynnz
  · obtain rfl := next_unique (exec_rssyn (by omega) (by omega) s) ht
    exact (s.computeSyndromes_synnz k npar).2 fun j _ => syndrome_of_zeros (fun i _ => hdbuf i) j

/-- Settles O14: the arrays are empty and the registers are as they are written, the two constant ones hold their
parameters in full, and an all-zero word has zero syndromes. -/
theorem resetValues : Obligations.ResetValues := by
  unfold Obligations.ResetValues
  obtain ⟨htErr, htErr'⟩ := tErr_bounds
  obtain ⟨hkHail, hkHail'⟩ := kHail_bounds
  have arrays (i : Nat) : Memory.read [] i = 0 := Memory.read_nil i
  exact ⟨fun i => ⟨arrays i, arrays i, arrays i, arrays i, arrays i, arrays i, arrays i, arrays i⟩,
    rfl, rfl, rfl, rfl, rfl, rfl, rfl, rfl, rfl, rfl,
    toNat_constant_register (by omega), htErr, htErr', toNat_constant_register hkHail', hkHail, hkHail',
    fun _ _ _ => exec_rssyn_of_zeros arrays rfl⟩

/-! ## The reset of the host -/

theorem step_of_port_reset {s : State} {rest : List HostEvent} (h : s.port = .reset :: rest) :
    step s = .next ((s.setPort rest).onBlock (·.applyReset)) :=
  step_of_port_cons h

/-- Settles O15: the step resets the block among the later moves, and from a legal state the two constant registers
have their reset values already. -/
theorem resetEventGivesResetState : Obligations.ResetEventGivesResetState := by
  unfold Obligations.ResetEventGivesResetState
  intro s rest hp
  refine ⟨step_of_port_reset hp, fun legal => ?_⟩
  rw [step_of_port_reset hp, State.onBlock, State.setPort_toBlock, legal.applyReset_eq]
  rfl

end Sys2Proof.Machine
end
